-- ==== Sys2Proof/Word.lean ====
section
/-! DEFINITION. The word types of SPTC and their plainest operations (00_scope.md R8, R10). -/

namespace Sys2Proof

/-- A plaintext byte, a character code, a WORK lane or a bank entry: 8 bits, unsigned (R8 `BYTE_W`, `CHAR_W`). -/
abbrev Byte := BitVec 8

/-- A register, a bus datum or a command word: 32 bits (R8 `BUS_W`). -/
abbrev Word := BitVec 32

/-- A 4-bit half of a byte, or an index into a 16-entry alphabet (R14). -/
abbrev Nibble := BitVec 4

/-- A bank index `K`, and an entry of the Rotation Schedule: 3 bits (R32, R82). -/
abbrev BankIx := BitVec 3

/-- A stream position modulo 24 (R25, R26). -/
abbrev Position := Fin 24

/-- Sixteen 8-bit entries: the WORK vector, a LUT bank, the Base Alphabet (R20). -/
abbrev Lanes := Vector Byte 16

/-- `zext_32` of an 8-bit value (R10). -/
def zext32 (b : Byte) : Word := b.zeroExtend 32

end Sys2Proof
end

