-- ==== Sys2Proof/Syntax.lean ====
section
/-! DEFINITION. The twelve commands of SPTC, one constructor per row of spec/opcode_table.json (30_encoding.md R83). -/

namespace Sys2Proof

/-- A command with its operands as the format carries them: `K` is 3 bits, `A` is 8 bits (R81, R82, R83). -/
inductive Instr where
  /-- NOP, no operation (R210). -/
  | nop
  /-- ENC, encode the plaintext byte `x` (R163). -/
  | enc (x : Byte)
  /-- ENCRST, start a new encoder stream (R164). -/
  | encrst
  /-- DECC, present the character `c` to the decoder (R184). -/
  | decc (c : Byte)
  /-- DECRST, end the decoder stream and start a new one (R185). -/
  | decrst
  /-- ERRCLR, clear the error state (R211). -/
  | errclr
  /-- XFORM, block-swap WORK with half-width `n` (R106). -/
  | xform (n : Byte)
  /-- LDBASE, load the Base Alphabet into WORK (R107). -/
  | ldbase
  /-- LDBANK, copy LUT bank `k` into WORK (R108). -/
  | ldbank (k : BankIx)
  /-- LUTRD, read entry `j` of bank `k` (R140). -/
  | lutrd (k : BankIx) (j : Byte)
  /-- LUTIDX, look the character `c` up in bank `k` (R141). -/
  | lutidx (k : BankIx) (c : Byte)
  /-- SCHRD, read schedule entry `j` (R142). -/
  | schrd (j : Byte)
  deriving DecidableEq, Repr

end Sys2Proof
end

