-- ==== Sys2Proof/WellFormed.lean ====
section
/-! DEFINITION. Which terms of Instr are commands: the operand ranges of 30_encoding.md R83.
Every other field of R83 is a range by its type (`K` any of 0..7, `A` any of 0..255) or is no operand at all. -/

namespace Sys2Proof

/-- LUTRD's entry index names an entry of a bank: `A` in 0..15 (R83, R140). -/
def lutrdInRange (j : Byte) : Bool := decide (j.toNat < 16)

/-- SCHRD's index names an entry of the schedule: `A` in 0..23 (R83, R142). -/
def schrdInRange (j : Byte) : Bool := decide (j.toNat < 24)

/-- The operand ranges of R83. -/
def Instr.wellFormed : Instr → Bool
  | .nop => true
  | .enc _ => true
  | .encrst => true
  | .decc _ => true
  | .decrst => true
  | .errclr => true
  | .xform _ => true
  | .ldbase => true
  | .ldbank _ => true
  | .lutrd _ j => lutrdInRange j
  | .lutidx _ _ => true
  | .schrd j => schrdInRange j

end Sys2Proof
end

