-- ==== Sys2Proof/Decode.lean ====
section
/-! DEFINITION. Decoding a command word with the checks of 30_encoding.md R88, and the encoder of R87. -/

namespace Sys2Proof

/-- Why a word is no command; the causes of 60_exceptions.md R232. -/
inductive CmdError where
  /-- `CMD[31:24]` is none of the twelve opcodes: cause 1. -/
  | illegalOpcode
  /-- a field that must be zero is not: cause 2. -/
  | reservedField
  /-- `A` names no entry (LUTRD, SCHRD): cause 3. -/
  | operandRange
  deriving DecidableEq, Repr

/-- The cause code recorded in `STATUS.ECAUSE` (R232). -/
def CmdError.code : CmdError → BitVec 2
  | .illegalOpcode => 1
  | .reservedField => 2
  | .operandRange => 3

/-- `OPC = CMD[31:24]` (R81). -/
def opcOf (w : Word) : BitVec 8 := w.extractLsb' 24 8

/-- `RSV = CMD[23:11]` (R81). -/
def rsvOf (w : Word) : BitVec 13 := w.extractLsb' 11 13

/-- `K = CMD[10:8]` (R81). -/
def kOf (w : Word) : BankIx := w.extractLsb' 8 3

/-- `A = CMD[7:0]` (R81). -/
def aOf (w : Word) : Byte := w.extractLsb' 0 8

/-- The twelve defined opcodes (R83, check 1 of R88). -/
def definedOpcodes : List (BitVec 8) :=
  [0x00, 0x01, 0x02, 0x03, 0x04, 0x05, 0x10, 0x11, 0x12, 0x20, 0x21, 0x22]

/-- The opcodes that take a bank; in every other command `K` must be 0 (R83, check 2 of R88). -/
def bankOpcodes : List (BitVec 8) := [0x12, 0x20, 0x21]

/-- The opcodes that take no `A`, so that it must be 0 (R83, check 2 of R88). -/
def noOperandOpcodes : List (BitVec 8) := [0x00, 0x02, 0x04, 0x05, 0x11, 0x12]

/-- Check 2 of R88: some field that must be zero is not. -/
def reservedNonZero (w : Word) : Bool :=
  (rsvOf w != 0) || (!(bankOpcodes.contains (opcOf w)) && kOf w != 0) ||
    (noOperandOpcodes.contains (opcOf w) && aOf w != 0)

/-- Check 3 of R88: the index names no entry. -/
def outOfRange (w : Word) : Bool :=
  (opcOf w == 0x20 && !lutrdInRange (aOf w)) || (opcOf w == 0x22 && !schrdInRange (aOf w))

/-- The command an opcode names, with its operands (R83); `none` for the 244 undefined opcodes (R85). -/
def instrOf (opc : BitVec 8) (k : BankIx) (a : Byte) : Option Instr :=
  if opc = 0x00 then some .nop
  else if opc = 0x01 then some (.enc a)
  else if opc = 0x02 then some .encrst
  else if opc = 0x03 then some (.decc a)
  else if opc = 0x04 then some .decrst
  else if opc = 0x05 then some .errclr
  else if opc = 0x10 then some (.xform a)
  else if opc = 0x11 then some .ldbase
  else if opc = 0x12 then some (.ldbank k)
  else if opc = 0x20 then some (.lutrd k a)
  else if opc = 0x21 then some (.lutidx k a)
  else if opc = 0x22 then some (.schrd a)
  else none

/-- The decoder: the checks of R88 in their order, the first that fails decides (R234). -/
def decode (w : Word) : Except CmdError Instr :=
  match instrOf (opcOf w) (kOf w) (aOf w) with
  | none => .error .illegalOpcode
  | some i =>
    if reservedNonZero w then .error .reservedField
    else if outOfRange w then .error .operandRange
    else .ok i

/-- A command's opcode (R83). -/
def Instr.opc : Instr → BitVec 8
  | .nop => 0x00
  | .enc _ => 0x01
  | .encrst => 0x02
  | .decc _ => 0x03
  | .decrst => 0x04
  | .errclr => 0x05
  | .xform _ => 0x10
  | .ldbase => 0x11
  | .ldbank _ => 0x12
  | .lutrd _ _ => 0x20
  | .lutidx _ _ => 0x21
  | .schrd _ => 0x22

/-- A command's `K` field, 0 where it takes no bank (R83). -/
def Instr.kField : Instr → BankIx
  | .nop => 0
  | .enc _ => 0
  | .encrst => 0
  | .decc _ => 0
  | .decrst => 0
  | .errclr => 0
  | .xform _ => 0
  | .ldbase => 0
  | .ldbank k => k
  | .lutrd k _ => k
  | .lutidx k _ => k
  | .schrd _ => 0

/-- A command's `A` field, 0 where it takes no operand (R83). -/
def Instr.aField : Instr → Byte
  | .nop => 0
  | .enc x => x
  | .encrst => 0
  | .decc c => c
  | .decrst => 0
  | .errclr => 0
  | .xform n => n
  | .ldbase => 0
  | .ldbank _ => 0
  | .lutrd _ j => j
  | .lutidx _ c => c
  | .schrd j => j

/-- The encoding function of R87: `(op << 24) | (k << 8) | a`, with `RSV = 0`. -/
def encode (i : Instr) : Word :=
  (i.opc.zeroExtend 32 <<< 24) ||| (i.kField.zeroExtend 32 <<< 8) ||| i.aField.zeroExtend 32

/-- The word whose bits the table numbers as `w`: a command is one 32-bit word, bit 0 its least significant (R80);
of a row of fewer than 32 bits the bits above are 0. -/
def tableWord (nbits w : Nat) : Word := BitVec.ofNat 32 (w % 2 ^ nbits)

/-- The instruction the decoder reads from a word of the opcode table; no command is wider than 32 bits (R80). -/
def decodeTableWord (nbits w : Nat) : Option Instr :=
  if nbits ≤ 32 then
    match decode (tableWord nbits w) with
    | .ok i => some i
    | .error _ => none
  else none

end Sys2Proof
end

