-- ==== Sys2Proof/Config.lean ====
section
/-! DEFINITION. What is fixed for the machine (00_scope.md R8; its widths and lengths are the types of Word.lean and
Machine/State.lean), the one parameter the spec leaves open (R54, OPEN-1)
and the one free value of the model. -/

namespace Sys2Proof

/-- `WIN_SIZE`, the bytes of the register window (R8, R50). -/
def Config.winSize : Nat := 32

/-- `BASE_LO`, the code of `l` (R8). UNVERIFIED by the source, the spec's own value (R9, log entry 9). -/
def Config.baseLo : Byte := 0x6C

/-- `BASE_HI`, the code of the last Base Alphabet character (R8). UNVERIFIED by the source (R9, log entry 9). -/
def Config.baseHi : Byte := 0x7B

/-- Which 32-byte window of the platform's address space is SPTC's: the parameter the spec leaves OPEN (R54).
It has no value here, so nothing can rest on one (log entry 8). -/
opaque Config.windowNumber : Nat

/-- `SPTC_BASE`: a multiple of 32, otherwise open (R54). -/
def Config.sptcBase : Nat := Config.winSize * Config.windowNumber

/-- FREE VALUE: `idx(A, c)` where `c` does not stand exactly once in `A`.
The spec applies `idx` only where it does (R12, R136) and states no value elsewhere. DESIGN CHOICE, log entry 5. -/
opaque Config.idxElsewhere : Lanes → Byte → Nibble

end Sys2Proof
end

