-- ==== Sys2Proof/Machine/Lanes.lean ====
section
/-! DEFINITION. The 16-lane block-swap network (40_permuter.md R100, R103, R104). -/

namespace Sys2Proof.Machine

/-- The Block-Swap Transform `T(s, n)` of R100 on any sequence, chunk by chunk; `fuel` bounds the number of chunks,
and as a chunk of `n > 0` takes at least one character, `s.length` chunks are enough. -/
def blockSwapChunks {α : Type} (n : Nat) : Nat → List α → List α
  | 0, s => s
  | fuel + 1, s =>
    match s with
    | [] => []
    | _ :: _ => (s.drop n).take n ++ s.take n ++ blockSwapChunks n fuel (s.drop (2 * n))

/-- `T(s, n)` (R100): the identity for `n = 0`, otherwise `chunk2 ++ chunk1` for every `2n`-wide chunk, both clamped
(a partly available `chunk2` is clamped too, D10, log entry 10). -/
def blockSwap {α : Type} (s : List α) (n : Nat) : List α :=
  if n = 0 then s else blockSwapChunks n s.length s

/-- `src_n(j)` of R103 as a number: which lane the network moves to lane `j`. -/
def laneSourceNat (n j : Nat) : Nat :=
  if n = 0 then j
  else
    let base := 2 * n * (j / (2 * n))
    let len := min (2 * n) (16 - base)
    let h := min n len
    let t := j - base
    if t < len - h then base + h + t else base + t - (len - h)

/-- The network reads inside the 16 lanes. -/
theorem laneSourceNat_lt (n j : Nat) (hj : j < 16) : laneSourceNat n j < 16 := by
  unfold laneSourceNat
  split
  · exact hj
  · have hb : 2 * n * (j / (2 * n)) ≤ j := Nat.mul_div_le j (2 * n)
    simp only
    generalize 2 * n * (j / (2 * n)) = b at hb
    split <;> omega

/-- `src_n(j)` of R103 as a lane. -/
def laneSource (n : Nat) (j : Fin 16) : Fin 16 :=
  ⟨laneSourceNat n j.val, laneSourceNat_lt n j.val j.isLt⟩

/-- The permuter: `T(WORK, n)` on 16 lanes, all lanes read before any is written (R104, R106). -/
def permute (v : Lanes) (n : Nat) : Lanes := Vector.ofFn fun j => v.get (laneSource n j)

end Sys2Proof.Machine
end

