-- ==== Sys2Proof/Machine/Tables.lean ====
section
/-! DEFINITION. The Base Alphabet, the Key Scheduler and the Rotation Schedule (41_key_schedule.md). -/

namespace Sys2Proof.Machine

/-- The Base Alphabet: sixteen consecutive codes from `l`, `B[j] = 0x6C + j` (R130). -/
def baseAlphabet : Lanes := Vector.ofFn fun j => Config.baseLo + BitVec.ofNat 8 j.val

/-- `inBase(c)`: the range compare of R131. -/
def inBase (c : Byte) : Bool := decide (Config.baseLo ≤ c) && decide (c ≤ Config.baseHi)

/-- The half-widths of each bank's composition, applied in order to the Base Alphabet (R132). -/
def bankChain : Vector (List Nat) 8 :=
  #v[[8], [4, 1], [8, 1], [1], [4], [2], [2, 1], [4, 2, 1]]

/-- The Key Scheduler: the eight banks derived with the permuter from the Base Alphabet (R132, R138). -/
def keySchedule (b : Lanes) : Vector Lanes 8 :=
  Vector.ofFn fun k => (bankChain.get k).foldl permute b

/-- The banks as R133 prints them. -/
def bankTable : Vector Lanes 8 :=
  #v[#v[0x74, 0x75, 0x76, 0x77, 0x78, 0x79, 0x7A, 0x7B, 0x6C, 0x6D, 0x6E, 0x6F, 0x70, 0x71, 0x72, 0x73],
     #v[0x71, 0x70, 0x73, 0x72, 0x6D, 0x6C, 0x6F, 0x6E, 0x79, 0x78, 0x7B, 0x7A, 0x75, 0x74, 0x77, 0x76],
     #v[0x75, 0x74, 0x77, 0x76, 0x79, 0x78, 0x7B, 0x7A, 0x6D, 0x6C, 0x6F, 0x6E, 0x71, 0x70, 0x73, 0x72],
     #v[0x6D, 0x6C, 0x6F, 0x6E, 0x71, 0x70, 0x73, 0x72, 0x75, 0x74, 0x77, 0x76, 0x79, 0x78, 0x7B, 0x7A],
     #v[0x70, 0x71, 0x72, 0x73, 0x6C, 0x6D, 0x6E, 0x6F, 0x78, 0x79, 0x7A, 0x7B, 0x74, 0x75, 0x76, 0x77],
     #v[0x6E, 0x6F, 0x6C, 0x6D, 0x72, 0x73, 0x70, 0x71, 0x76, 0x77, 0x74, 0x75, 0x7A, 0x7B, 0x78, 0x79],
     #v[0x6F, 0x6E, 0x6D, 0x6C, 0x73, 0x72, 0x71, 0x70, 0x77, 0x76, 0x75, 0x74, 0x7B, 0x7A, 0x79, 0x78],
     #v[0x73, 0x72, 0x71, 0x70, 0x6F, 0x6E, 0x6D, 0x6C, 0x7B, 0x7A, 0x79, 0x78, 0x77, 0x76, 0x75, 0x74]]

/-- The Rotation Schedule literal (R137). -/
def rotationSchedule : Vector BankIx 24 :=
  #v[0, 1, 2, 3, 4, 0, 3, 5, 2, 1, 5, 4, 3, 6, 6, 2, 4, 2, 2, 4, 3, 2, 7, 7]

/-- The XOR mask of each bank (R134), a derived form for statements; the machine reads the banks themselves. -/
def bankMask : Vector Nibble 8 := #v[8, 5, 9, 1, 4, 2, 3, 7]

/-- `A[j]` for a 16-entry alphabet (R11). -/
def entryAt (a : Lanes) (j : Nibble) : Byte := a.get j.toFin

/-- Bank `k` of eight (R82). -/
def bankAt (p : Vector Lanes 8) (k : BankIx) : Lanes := p.get k.toFin

/-- Where `c` stands in `a`, in rising order. -/
def placesOf (a : Lanes) (c : Byte) : List (Fin 16) := (List.finRange 16).filter fun j => a.get j == c

/-- `idx(A, c)`: the unique `j` with `A[j] = c` (R136); elsewhere the spec states no value and it is free (log entry 5). -/
def idx (a : Lanes) (c : Byte) : Nibble :=
  match placesOf a c with
  | [j] => BitVec.ofFin j
  | _ => Config.idxElsewhere a c

end Sys2Proof.Machine
end

