-- ==== Sys2Proof/Machine/State.lean ====
section
/-! DEFINITION. The state of SPTC (10_state.md R20), what the host can do to it, and why a step can stop. -/

namespace Sys2Proof.Machine

/-- The size of a bus access; only `word` has a meaning inside the window (20_memory.md R52). -/
inductive AccessSize where
  | byte
  | half
  | word
  deriving DecidableEq, Repr

/-- What the host side of the block does, one event a step. Offsets are relative to `SPTC_BASE` (R54). -/
inductive HostEvent where
  /-- a bus read (R55) -/
  | read (offset : Int) (size : AccessSize)
  /-- a bus write of `v` (R56) -/
  | write (offset : Int) (size : AccessSize) (v : Word)
  /-- the reset input is asserted (70_reset_and_hazards.md R260) -/
  | assertReset
  /-- the reset input is deasserted (R260) -/
  | releaseReset
  deriving DecidableEq, Repr

/-- Why the machine stops with a fault: never. No byte, character, half-width, bank value or command word stops SPTC
(60_exceptions.md R230, R231, R236), so nobody raises one; safe (log entry 15). -/
inductive Fault where
  deriving DecidableEq, Repr

/-- Why a step has no meaning. -/
inductive Refusal where
  /-- Raised by exec's arm of an instruction that has no meaning yet; no arm does. Safe: nothing is claimed of it. -/
  | notModelled (mnemonic : String)
  /-- Raised by a bus access that touches the window and is not a 32-bit access at a multiple of 4 in it:
  it has no meaning in the spec, which asks a model to refuse it (R52, R233, I4). Safe (log entry 7). -/
  | undefinedAccess
  /-- Raised by a bus access to the window while reset is asserted: SPTC accepts none (R260) and the spec does not say
  what the host sees of it. Safe (log entry 3). -/
  | accessInReset
  deriving DecidableEq, Repr

/-- The state: the eleven elements of R20, then the model's own three fields for the world outside the block. -/
structure State where
  /-- `RESULT` (R23). -/
  result : Word
  /-- `STATUS.ENC_POS`, a position modulo 24 (R25, I7). -/
  encPos : Position
  /-- `STATUS.DEC_POS`, a position modulo 24 (R26, I7). -/
  decPos : Position
  /-- `STATUS.DEC_PEND` (R27). -/
  decPend : Bool
  /-- `PCHAR`, read through `DPEND` (R29). -/
  pchar : Byte
  /-- `STATUS.ERR` (R28). -/
  err : Bool
  /-- `STATUS.ECAUSE` (R28, R232). -/
  ecause : BitVec 2
  /-- `WORK[0..15]` (R30). -/
  work : Lanes
  /-- `P[0..7][0..15]`, the LUT banks, read-only (R31). -/
  banks : Vector Lanes 8
  /-- `SCHED[0..23]`, the schedule ROM (R32). -/
  sched : Vector BankIx 24
  /-- `B[0..15]`, the Base Alphabet (R33). -/
  base : Lanes
  /-- The model's own: what the host has issued and SPTC has not yet performed, oldest first (log entry 1). -/
  pending : List HostEvent
  /-- The model's own: the values SPTC has returned to the host's reads, oldest first (log entry 1). -/
  returned : List Word
  /-- The model's own: the level of the reset input, true while asserted (R260, log entry 3). -/
  resetLine : Bool
  deriving DecidableEq, Repr

/-- The state when reset is deasserted: every element at its value of R37, the banks as the Key Scheduler has derived
them (R261); nothing is issued or returned and reset is not asserted (DESIGN CHOICE, log entries 1 and 3). -/
def State.reset : State where
  result := 0
  encPos := 0
  decPos := 0
  decPend := false
  pchar := 0
  err := false
  ecause := 0
  work := baseAlphabet
  banks := keySchedule baseAlphabet
  sched := rotationSchedule
  base := baseAlphabet
  pending := []
  returned := []
  resetLine := false

end Sys2Proof.Machine
end

