-- ==== Sys2Proof/Machine/Ops.lean ====
section
/-! DEFINITION. The named operations on the state: one home for every register's writes, the error entry and the
return from it, the effect of reset. -/

namespace Sys2Proof.Machine

/-- What one step answers. -/
abbrev Answer := Host.Outcome State Fault Refusal

/-- Write `RESULT` (R23). -/
def State.setResult (s : State) (v : Word) : State := { s with result := v }

/-- Write `STATUS.ENC_POS` (R25). -/
def State.setEncPos (s : State) (p : Position) : State := { s with encPos := p }

/-- Write `STATUS.DEC_POS` (R26). -/
def State.setDecPos (s : State) (p : Position) : State := { s with decPos := p }

/-- `DEC_PEND <- 1`, `PCHAR <- c` (R27, R29). -/
def State.holdChar (s : State) (c : Byte) : State := { s with decPend := true, pchar := c }

/-- `DEC_PEND <- 0`, `PCHAR <- 0x00` (R27, R29). -/
def State.dropChar (s : State) : State := { s with decPend := false, pchar := 0 }

/-- Write `WORK` whole (R30). -/
def State.setWork (s : State) (v : Lanes) : State := { s with work := v }

/-- Write `STATUS.ERR` and `STATUS.ECAUSE` (R28). -/
def State.setError (s : State) (e : Bool) (cause : BitVec 2) : State := { s with err := e, ecause := cause }

/-- The model's own: what is still to be performed. -/
def State.setPending (s : State) (q : List HostEvent) : State := { s with pending := q }

/-- The model's own: a read returns `v` to the host (R55). -/
def State.pushReturned (s : State) (v : Word) : State := { s with returned := s.returned ++ [v] }

/-- The model's own: the level of the reset input. -/
def State.setResetLine (s : State) (b : Bool) : State := { s with resetLine := b }

/-- ERROR ENTRY, `raise CmdError(cause)` (R231): the first error since the last clear is kept, nothing else changes. -/
def raiseCmdError (e : CmdError) (s : State) : State :=
  if s.err then s else s.setError true e.code

/-- RETURN FROM ERROR (R237, R211): `ERR <- 0`, `ECAUSE <- 0`. -/
def clearError (s : State) : State := s.setError false 0

/-- The effect of deasserting reset (R260, R261): every element of R20 takes its reset value, and the block accepts
accesses again; what the host has still to issue and has already read is the host's and stays. -/
def State.afterReset (s : State) : State :=
  { State.reset with pending := s.pending, returned := s.returned }

end Sys2Proof.Machine
end

