-- ==== Sys2Proof/Machine/Operands.lean ====
section
/-! DEFINITION. The operand forms of the commands (30_encoding.md R82) and the table reads they select. -/

namespace Sys2Proof.Machine

/-- The low nibble of a plaintext byte, `x & 0xF`, encoded first (R58, R163). -/
def lowNibble (x : Byte) : Nibble := x.extractLsb' 0 4

/-- The high nibble of a plaintext byte, `(x >> 4) & 0xF`, encoded second (R58, R163). -/
def highNibble (x : Byte) : Nibble := x.extractLsb' 4 4

/-- `(posB << 4) | posA` (R58, R184). -/
def joinNibbles (high low : Nibble) : Byte := high ++ low

/-- `P[K]`: a bank operand is the unsigned number `CMD[10:8]` (R82). -/
def State.bank (s : State) (k : BankIx) : Lanes := bankAt s.banks k

/-- The bank the schedule picks for a stream position, `P[SCHED[pos]]` (R137). -/
def State.bankFor (s : State) (p : Position) : Lanes := s.bank (s.sched.get p)

/-- `(pos + 1) mod 24` (R163, R184). -/
def nextPosition (p : Position) : Position := ⟨(p.val + 1) % 24, Nat.mod_lt _ (by decide)⟩

/-- `A` as LUTRD's entry index: the entry it names, or none where it names none (R83, R140). -/
def lutrdIndex (j : Byte) : Option Nibble := if lutrdInRange j then some (j.setWidth 4) else none

/-- `A` as SCHRD's index: the schedule entry it names, or none where it names none (R83, R142). -/
def schrdIndex (j : Byte) : Option Position := if h : j.toNat < 24 then some ⟨j.toNat, h⟩ else none

end Sys2Proof.Machine
end

