-- ==== Sys2Proof/Machine/Flags.lean ====
section
/-! DEFINITION. The layouts of STATUS and DPEND (10_state.md R24, R29) and of RESULT with its flags (R35). -/

namespace Sys2Proof.Machine

/-- A position as the 5-bit field of STATUS (R24). -/
def posBits (p : Position) : BitVec 5 := BitVec.ofNat 5 p.val

/-- `STATUS` as read: `{5'b0, ECAUSE, ERR, 7'b0, DEC_PEND, 3'b0, DEC_POS, 3'b0, ENC_POS}` (R24, R55). -/
def State.statusWord (s : State) : Word :=
  0#5 ++ s.ecause ++ BitVec.ofBool s.err ++ 0#7 ++ BitVec.ofBool s.decPend ++ 0#3 ++ posBits s.decPos ++
    0#3 ++ posBits s.encPos

/-- `DPEND` as read: `zext_32(PCHAR)` (R29, R55). -/
def State.dpendWord (s : State) : Word := zext32 s.pchar

/-- ENC's result, `{16'b0, second, first}` (R163, R57). -/
def encResult (first second : Byte) : Word := 0#16 ++ second ++ first

/-- DECC's result: `PEND` at bit 10, `ACC` at bit 9, `OV` at bit 8, `BYTE` below (R184). -/
def deccResult (pend acc ov : Bool) (x : Byte) : Word :=
  0#21 ++ BitVec.ofBool pend ++ BitVec.ofBool acc ++ BitVec.ofBool ov ++ x

/-- DECRST's result: `DROPPED` at bit 0 (R185). -/
def decrstResult (dropped : Bool) : Word := (BitVec.ofBool dropped).setWidth 32

/-- LUTIDX's result for a character found at `j`: `FOUND` at bit 8, the index in bits [3:0] (R141). -/
def foundResult (j : Nibble) : Word := 0#23 ++ 1#1 ++ 0#4 ++ j

/-- LUTIDX's result for a character outside the base set: `FOUND = 0`, index 0 (R141). -/
def notFoundResult : Word := 0

/-- SCHRD's result, `zext_32(SCHED[A])` (R142). -/
def schedResult (k : BankIx) : Word := k.setWidth 32

end Sys2Proof.Machine
end

