-- ==== Sys2Proof/Machine/Control.lean ====
section
/-! DEFINITION. The control commands (44_control.md). -/

namespace Sys2Proof.Machine

/-- NOP (R210): no state changes. -/
def execNop (s : State) : Answer := .next s

/-- ERRCLR (R211): the return from error. -/
def execErrclr (s : State) : Answer := .next (clearError s)

end Sys2Proof.Machine
end

