-- ==== Sys2Proof/Machine/Decoder.lean ====
section
/-! DEFINITION. The decoder's commands (43_decoder.md). -/

namespace Sys2Proof.Machine

/-- The byte a pair of characters stands for under one alphabet (R184): the first character is the low nibble. -/
def decodePair (a : Lanes) (first second : Byte) : Byte := joinNibbles (idx a second) (idx a first)

/-- DECC of noise (R184): only RESULT is written, with `PEND` the unchanged `DEC_PEND`. -/
def deccNoise (s : State) : State := s.setResult (deccResult s.decPend false false 0)

/-- DECC of the first character of a pair (R184). -/
def deccFirst (c : Byte) (s : State) : State := (s.holdChar c).setResult (deccResult true true false 0)

/-- DECC of the second character of a pair (R184). -/
def deccSecond (c : Byte) (s : State) : State :=
  (s.dropChar.setDecPos (nextPosition s.decPos)).setResult
    (deccResult false true true (decodePair (s.bankFor s.decPos) s.pchar c))

/-- DECC (R184). -/
def execDecc (c : Byte) (s : State) : Answer :=
  if inBase c then
    if s.decPend then .next (deccSecond c s) else .next (deccFirst c s)
  else .next (deccNoise s)

/-- DECRST (R185). -/
def execDecrst (s : State) : Answer :=
  .next ((s.dropChar.setDecPos 0).setResult (decrstResult s.decPend))

end Sys2Proof.Machine
end

