-- ==== Sys2Proof/Machine/Encoder.lean ====
section
/-! DEFINITION. The encoder's commands (42_encoder.md). -/

namespace Sys2Proof.Machine

/-- The two characters of a byte under one alphabet, low nibble first (R163). -/
def encodeByte (a : Lanes) (x : Byte) : Word :=
  encResult (entryAt a (lowNibble x)) (entryAt a (highNibble x))

/-- ENC (R163). -/
def execEnc (x : Byte) (s : State) : Answer :=
  .next ((s.setResult (encodeByte (s.bankFor s.encPos) x)).setEncPos (nextPosition s.encPos))

/-- ENCRST (R164). -/
def execEncrst (s : State) : Answer := .next (s.setEncPos 0)

end Sys2Proof.Machine
end

