-- ==== Sys2Proof/Machine/Permuter.lean ====
section
/-! DEFINITION. The permuter's commands (40_permuter.md). -/

namespace Sys2Proof.Machine

/-- XFORM (R106): `WORK <- T(WORK, n)`. -/
def execXform (n : Byte) (s : State) : Answer := .next (s.setWork (permute s.work n.toNat))

/-- LDBASE (R107): `WORK <- B`. -/
def execLdbase (s : State) : Answer := .next (s.setWork s.base)

/-- LDBANK (R108): `WORK <- P[K]`. -/
def execLdbank (k : BankIx) (s : State) : Answer := .next (s.setWork (s.bank k))

end Sys2Proof.Machine
end

