-- ==== Sys2Proof/Machine/TableReads.lean ====
section
/-! DEFINITION. The commands that read the tables (41_key_schedule.md). -/

namespace Sys2Proof.Machine

/-- LUTRD (R140); an index that names no entry is the error of R88's check 3 (log entry 17). -/
def execLutrd (k : BankIx) (j : Byte) (s : State) : Answer :=
  match lutrdIndex j with
  | some i => .next (s.setResult (zext32 (entryAt (s.bank k) i)))
  | none => .next (raiseCmdError .operandRange s)

/-- LUTIDX (R141). -/
def execLutidx (k : BankIx) (c : Byte) (s : State) : Answer :=
  if inBase c then .next (s.setResult (foundResult (idx (s.bank k) c)))
  else .next (s.setResult notFoundResult)

/-- SCHRD (R142); an index that names no entry is the error of R88's check 3 (log entry 17). -/
def execSchrd (j : Byte) (s : State) : Answer :=
  match schrdIndex j with
  | some i => .next (s.setResult (schedResult (s.sched.get i)))
  | none => .next (raiseCmdError .operandRange s)

end Sys2Proof.Machine
end

