-- ==== Sys2Proof/Machine/Dispatch.lean ====
section
/-! DEFINITION. The rule a command runs once the checks of 30_encoding.md R88 have passed. -/

namespace Sys2Proof.Machine

def exec (i : Instr) (s : State) : Host.Outcome State Fault Refusal :=
  match i with
  | .nop => Sys2Proof.Machine.execNop s
  | .enc x => Sys2Proof.Machine.execEnc x s
  | .encrst => Sys2Proof.Machine.execEncrst s
  | .decc c => Sys2Proof.Machine.execDecc c s
  | .decrst => Sys2Proof.Machine.execDecrst s
  | .errclr => Sys2Proof.Machine.execErrclr s
  | .xform n => Sys2Proof.Machine.execXform n s
  | .ldbase => Sys2Proof.Machine.execLdbase s
  | .ldbank k => Sys2Proof.Machine.execLdbank k s
  | .lutrd k j => Sys2Proof.Machine.execLutrd k j s
  | .lutidx k c => Sys2Proof.Machine.execLutidx k c s
  | .schrd j => Sys2Proof.Machine.execSchrd j s

end Sys2Proof.Machine
end

