-- ==== Sys2Proof/Machine/Bus.lean ====
section
/-! DEFINITION. The register window and the host's accesses to it (20_memory.md). -/

namespace Sys2Proof.Machine

/-- The registers of the window (R51). -/
inductive Reg where
  | cmd
  | result
  | status
  | dpend
  | work (w : Fin 4)
  deriving DecidableEq, Repr

/-- A register's offset (R51). -/
def Reg.offset : Reg → Int
  | .cmd => 0x00
  | .result => 0x04
  | .status => 0x08
  | .dpend => 0x0C
  | .work w => 0x10 + 4 * (w.val : Int)

/-- The register at an offset: a multiple of 4 within the window (R51, R52). -/
def regAt (off : Int) : Option Reg :=
  if off = 0x00 then some .cmd
  else if off = 0x04 then some .result
  else if off = 0x08 then some .status
  else if off = 0x0C then some .dpend
  else if off = 0x10 then some (.work 0)
  else if off = 0x14 then some (.work 1)
  else if off = 0x18 then some (.work 2)
  else if off = 0x1C then some (.work 3)
  else none

/-- How many bytes an access covers. -/
def AccessSize.bytes : AccessSize → Int
  | .byte => 1
  | .half => 2
  | .word => 4

/-- What an access reaches. -/
inductive Target where
  /-- a register of the window (R51) -/
  | reg (r : Reg)
  /-- no byte of the window: not an access to SPTC (R53) -/
  | outside
  /-- it touches the window and has no meaning (R52) -/
  | undefined
  deriving DecidableEq, Repr

/-- No byte of the access lies in the window: offsets at or above 0x20, and those that end below it (R53, log entry 6). -/
def outsideWindow (off : Int) (size : AccessSize) : Bool :=
  decide ((Config.winSize : Int) ≤ off) || decide (off + size.bytes ≤ 0)

/-- Where an access goes: R52 defines only the 32-bit access at a multiple of 4 in the window. -/
def targetOf (off : Int) (size : AccessSize) : Target :=
  if outsideWindow off size then .outside
  else
    match size with
    | .byte => .undefined
    | .half => .undefined
    | .word =>
      match regAt off with
      | some r => .reg r
      | none => .undefined

/-- The offset the platform gives an access at an address of its own space (R54). -/
def offsetOf (address : Nat) : Int := (address : Int) - (Config.sptcBase : Int)

/-- Lane `4w + i` of WORK (R30). -/
def laneOf (w : Fin 4) (i : Fin 4) : Fin 16 := ⟨4 * w.val + i.val, by omega⟩

/-- `WORKw` as read, lane `4w + i` in bits `[8i+7:8i]` (R55, R57). -/
def workWord (v : Lanes) (w : Fin 4) : Word :=
  v.get (laneOf w 3) ++ v.get (laneOf w 2) ++ v.get (laneOf w 1) ++ v.get (laneOf w 0)

/-- Byte `i` of a bus word, `v[8i+7:8i]` (R56). -/
def busByte (v : Word) (i : Nat) : Byte := v.extractLsb' (8 * i) 8

/-- `WORK` after a write of `v` to `WORKw`: its four lanes at once (R56, R60). -/
def writeWorkWord (a : Lanes) (w : Fin 4) (v : Word) : Lanes :=
  Vector.ofFn fun j => if j.val / 4 = w.val then busByte v (j.val % 4) else a.get j

/-- `MemRead` (R55): no state changes. -/
def readReg (r : Reg) (s : State) : Word :=
  match r with
  | .cmd => 0
  | .result => s.result
  | .status => s.statusWord
  | .dpend => s.dpendWord
  | .work w => workWord s.work w

/-- A word written to CMD: the checks of R88, then the command's rule or the error of R231. -/
def runCommand (w : Word) (s : State) : Answer :=
  match decode w with
  | .ok i => exec i s
  | .error e => .next (raiseCmdError e s)

/-- `MemWrite` (R56): CMD runs a command, read-only registers ignore the write, WORKw takes it. -/
def writeReg (r : Reg) (v : Word) (s : State) : Answer :=
  match r with
  | .cmd => runCommand v s
  | .result => .next s
  | .status => .next s
  | .dpend => .next s
  | .work w => .next (s.setWork (writeWorkWord s.work w v))

/-- A bus read performed (R55); outside the window SPTC is unchanged and returns nothing (R53); while reset is asserted no
access is accepted (R260). -/
def busRead (off : Int) (size : AccessSize) (s : State) : Answer :=
  match targetOf off size with
  | .outside => .next s
  | .undefined => .refused .undefinedAccess
  | .reg r => if s.resetLine then .refused .accessInReset else .next (s.pushReturned (readReg r s))

/-- A bus write performed (R56); the other cases as for a read. -/
def busWrite (off : Int) (size : AccessSize) (v : Word) (s : State) : Answer :=
  match targetOf off size with
  | .outside => .next s
  | .undefined => .refused .undefinedAccess
  | .reg r => if s.resetLine then .refused .accessInReset else writeReg r v s

/-- Deasserting reset: if it was asserted, every element takes its reset value (R260); otherwise nothing happens. -/
def releaseReset (s : State) : State := if s.resetLine then s.afterReset else s

/-- One host event is one atomic step (R62). -/
def perform (e : HostEvent) (s : State) : Answer :=
  match e with
  | .read off size => busRead off size s
  | .write off size v => busWrite off size v s
  | .assertReset => .next (s.setResetLine true)
  | .releaseReset => .next (releaseReset s)

/-- The host's write of a command word (R89: each command statement is `WR 0x00, word`). -/
def cmdWrite (w : Word) : HostEvent := .write 0 .word w

end Sys2Proof.Machine
end

