-- ==== Sys2Proof/Machine/Step.lean ====
section
/-! DEFINITION. One step: the oldest access the host has issued is performed (20_memory.md R62, R63). -/

namespace Sys2Proof.Machine

/-- SPTC does nothing until the host accesses it (R262, log entry 2); accesses are performed one at a time, in the order
they were issued (R63). -/
def step (s : State) : Host.Outcome State Fault Refusal :=
  match s.pending with
  | [] => .next s
  | e :: rest => perform e (s.setPending rest)

/-- `s` with a write of the word to CMD as the next access, and reset not asserted, so that it is accepted. -/
def State.withFetchWord (s : State) (nbits w : Nat) : State :=
  (s.setPending (cmdWrite (tableWord nbits w) :: s.pending)).setResetLine false

end Sys2Proof.Machine
end

