-- ==== Sys2Proof/Machine/Pseudo.lean ====
section
/-! DEFINITION. The host's statements and pseudo-instructions as lists of accesses (30_encoding.md R89, R90). -/

namespace Sys2Proof.Machine

/-- A command statement assembles to `WR 0x00, word` with the word of R87 (R89). -/
def cmdStatement (i : Instr) : HostEvent := cmdWrite (encode i)

/-- `RD` of a register (R89). -/
def rdStatement (r : Reg) : HostEvent := .read r.offset .word

/-- `WR` of a register (R89). -/
def wrStatement (r : Reg) (v : Word) : HostEvent := .write r.offset .word v

/-- `WRWORK "s"` (R90). -/
def wrWork (v : Lanes) : List HostEvent := (List.finRange 4).map fun w => wrStatement (.work w) (workWord v w)

/-- `RDWORK` (R90). -/
def rdWork : List HostEvent := (List.finRange 4).map fun w => rdStatement (.work w)

/-- `XFORMS n1, ..., nm` (R90). -/
def xformsProgram (ns : List Byte) : List HostEvent := ns.map fun n => cmdStatement (.xform n)

/-- `ENCODE b0, ..., b(m-1)` (R90). -/
def encodeProgram (p : List Byte) : List HostEvent :=
  cmdStatement .encrst :: p.flatMap fun x => [cmdStatement (.enc x), rdStatement .result]

/-- `DECODE "t"` (R90). -/
def decodeProgram (t : List Byte) : List HostEvent :=
  cmdStatement .decrst :: (t.flatMap fun c => [cmdStatement (.decc c), rdStatement .result]) ++ [cmdStatement .decrst]

/-- The output text of ENCODE: `RESULT[7:0]`, then `RESULT[15:8]` of each read (R90). -/
def encodeOutput (reads : List Word) : List Byte := reads.flatMap fun v => [busByte v 0, busByte v 1]

/-- The output bytes of DECODE: `RESULT[7:0]` of each read with `RESULT[8] = 1` (R90). -/
def decodeOutput (reads : List Word) : List Byte := (reads.filter fun v => v.getLsbD 8).map fun v => busByte v 0

end Sys2Proof.Machine
end

