-- ==== Sys2Proof/Machine/Source.lean ====
section
/-! DEFINITION. The codec's two pure functions as the source gives them (42_encoder.md R160, 43_decoder.md R180),
over the constant tables. The machine does not call them: statements compare its streams with them. -/

namespace Sys2Proof.Machine

/-- The alphabet of position `i`, `P[schedule[i mod 24]]` (R160, R180). -/
def sourceAlphabet (i : Nat) : Lanes :=
  bankAt bankTable (rotationSchedule.get ⟨i % 24, Nat.mod_lt _ (by decide)⟩)

/-- The two characters of the byte `x` at position `i`: `A[x & 0xF]`, then `A[(x >> 4) & 0xF]` (R160). -/
def sourceUnit (i : Nat) (x : Byte) : List Byte :=
  [(sourceAlphabet i).get ⟨x.toNat % 16, Nat.mod_lt _ (by decide)⟩,
   (sourceAlphabet i).get ⟨x.toNat / 16 % 16, Nat.mod_lt _ (by decide)⟩]

/-- `encode` from position `i` on (R160). -/
def sourceEncodeFrom (i : Nat) : List Byte → List Byte
  | [] => []
  | x :: p => sourceUnit i x ++ sourceEncodeFrom (i + 1) p

/-- `encode(p)` (R160). -/
def sourceEncode (p : List Byte) : List Byte := sourceEncodeFrom 0 p

/-- The byte of the pair `(c1, c2)` at pair position `i`: `(posB << 4) | posA` (R180 step 3). -/
def sourcePair (i : Nat) (c1 c2 : Byte) : Byte :=
  BitVec.ofNat 8 (16 * (sourceAlphabet i).toList.idxOf c2 + (sourceAlphabet i).toList.idxOf c1)

/-- Steps 2 to 4 of R180 on filtered text, from pair position `i` on; a last odd character is dropped. -/
def sourcePairsFrom (i : Nat) : List Byte → List Byte
  | c1 :: c2 :: f => sourcePair i c1 c2 :: sourcePairsFrom (i + 1) f
  | [_] => []
  | [] => []

/-- Step 1 of R180: the characters of the base set, in order. -/
def sourceFilter (t : List Byte) : List Byte := t.filter inBase

/-- `decode(t)` (R180). -/
def sourceDecode (t : List Byte) : List Byte := sourcePairsFrom 0 (sourceFilter t)

end Sys2Proof.Machine
end

