-- ==== Sys2Proof/Safety.lean ====
section
/-! DEFINITION. What statements are stated in: runs of many steps, the invariants of 10_state.md R34, and which host
events have a meaning. -/

namespace Sys2Proof.Machine

/-- `k` steps, stopping at the first refusal. -/
def runSteps : Nat → State → Answer
  | 0, s => .next s
  | k + 1, s =>
    match step s with
    | .next t => runSteps k t
    | .fault r => .fault r
    | .refused r => .refused r

/-- The constant tables hold what the spec prints (R31, R32, R33, R130, R133, R137). -/
abbrev State.TablesIntact (s : State) : Prop :=
  s.base = baseAlphabet ∧ s.banks = bankTable ∧ s.sched = rotationSchedule

/-- `DEC_PEND = 0` implies `PCHAR = 0x00`; `DEC_PEND = 1` implies `inBase(PCHAR)` (R29, R34). -/
abbrev State.HeldLegal (s : State) : Prop :=
  (s.decPend = false → s.pchar = 0) ∧ (s.decPend = true → inBase s.pchar = true)

/-- `ERR = 0` if and only if `ECAUSE = 0` (R28, R34). -/
abbrev State.ErrorLegal (s : State) : Prop := s.err = false ↔ s.ecause = 0

/-- The reads-0 bits of `RESULT` are 0 (R34): it is two base-set characters, the layout of ENC (R163), or it is 0 above
bit 10, the layouts of the other commands (R140 to R142, R184, R185). -/
abbrev State.ResultLegal (s : State) : Prop :=
  s.result.toNat < 0x800 ∨
    (s.result.extractLsb' 16 16 = 0 ∧ inBase (busByte s.result 0) = true ∧ inBase (busByte s.result 1) = true)

/-- The invariants of R34 (the positions are below 24 by their type). -/
abbrev State.Inv (s : State) : Prop := s.TablesIntact ∧ s.HeldLegal ∧ s.ErrorLegal ∧ s.ResultLegal

/-- A host event that has a meaning while the reset input is at this level: no sub-word or misaligned access to the window
(R52, R68), and no access to it in reset (R260). That an access outside the window (log entry 6) and the two events of the
reset input (log entry 3) count as having one is the model's choice. -/
def HostEvent.legal (inReset : Bool) : HostEvent → Bool
  | .read off size => decide (targetOf off size ≠ .undefined) && (decide (targetOf off size = .outside) || !inReset)
  | .write off size _ => decide (targetOf off size ≠ .undefined) && (decide (targetOf off size = .outside) || !inReset)
  | .assertReset => true
  | .releaseReset => true

/-- The bits of `CMD[23:0]` that must be zero for an opcode: where one is not, the word is the error of check 2 (R88). -/
def MustBeZero (opcode : Nat) (bits : Word) : Prop :=
  ∀ w : Word, w.toNat / 2 ^ 24 = opcode → w &&& bits ≠ 0 → decode w = .error .reservedField

/-- What a read of each register gives, as a number put together from the fields (R24, R29, R55, R57). -/
def registerValue (r : Reg) (s : State) : Nat :=
  match r with
  | .cmd => 0
  | .result => s.result.toNat
  | .status =>
    s.encPos.val + 2 ^ 8 * s.decPos.val + 2 ^ 16 * s.decPend.toNat + 2 ^ 24 * s.err.toNat + 2 ^ 25 * s.ecause.toNat
  | .dpend => s.pchar.toNat
  | .work w =>
    (s.work.get (laneOf w 0)).toNat + 2 ^ 8 * (s.work.get (laneOf w 1)).toNat +
      2 ^ 16 * (s.work.get (laneOf w 2)).toNat + 2 ^ 24 * (s.work.get (laneOf w 3)).toNat

/-- The mask sequence by position 0..23, as R162 prints it. -/
def maskSequence : List Nat := [8, 5, 9, 1, 4, 8, 1, 2, 9, 5, 2, 4, 1, 3, 3, 9, 4, 9, 9, 4, 1, 9, 7, 7]

/-- The mask of a position (R162). -/
def maskAt (p : Position) : Nat := maskSequence.getD p.val 0

/-- `t` is an interleaving of `a` and `b` that reorders neither (R188). -/
inductive Interleaving : List Byte → List Byte → List Byte → Prop where
  | nil : Interleaving [] [] []
  | left {c : Byte} {a b t : List Byte} : Interleaving a b t → Interleaving (c :: a) b (c :: t)
  | right {c : Byte} {a b t : List Byte} : Interleaving a b t → Interleaving a (c :: b) (c :: t)

/-- The encoder's commands (42_encoder.md). -/
def encoderCommand : Instr → Bool
  | .nop => false
  | .enc _ => true
  | .encrst => true
  | .decc _ => false
  | .decrst => false
  | .errclr => false
  | .xform _ => false
  | .ldbase => false
  | .ldbank _ => false
  | .lutrd _ _ => false
  | .lutidx _ _ => false
  | .schrd _ => false

/-- The decoder's commands (43_decoder.md). -/
def decoderCommand : Instr → Bool
  | .nop => false
  | .enc _ => false
  | .encrst => false
  | .decc _ => true
  | .decrst => true
  | .errclr => false
  | .xform _ => false
  | .ldbase => false
  | .ldbank _ => false
  | .lutrd _ _ => false
  | .lutidx _ _ => false
  | .schrd _ => false

/-- The permuter's commands (40_permuter.md). -/
def permuterCommand : Instr → Bool
  | .nop => false
  | .enc _ => false
  | .encrst => false
  | .decc _ => false
  | .decrst => false
  | .errclr => false
  | .xform _ => true
  | .ldbase => true
  | .ldbank _ => true
  | .lutrd _ _ => false
  | .lutidx _ _ => false
  | .schrd _ => false

/-- The commands that write RESULT (R23, R35). -/
def writesResult : Instr → Bool
  | .nop => false
  | .enc _ => true
  | .encrst => false
  | .decc _ => true
  | .decrst => true
  | .errclr => false
  | .xform _ => false
  | .ldbase => false
  | .ldbank _ => false
  | .lutrd _ _ => true
  | .lutidx _ _ => true
  | .schrd _ => true

end Sys2Proof.Machine
end

