-- ==== Sys2Proof/Certificates/Slice0/Obligations.lean ====
section
/-! DEFINITION. The statements about SPTC, each from the numbered rules of spec/ its docstring names.
Where a statement has the premise TablesIntact, it is because State holds the tables as data: StepKeepsInvariant and
TablesNeverWritten say that every step keeps it. -/

open Sys2Proof Sys2Proof.Machine

/-- R87: the word of a command, its fields read back, and decoding as its inverse on legal words. -/
def Obligations.EncodedWordsDecodeBack : Prop :=
  ∀ i : Instr, i.wellFormed = true →
    (encode i).toNat = i.opc.toNat * 2 ^ 24 + i.kField.toNat * 2 ^ 8 + i.aField.toNat ∧
    opcOf (encode i) = i.opc ∧ rsvOf (encode i) = 0 ∧ kOf (encode i) = i.kField ∧ aOf (encode i) = i.aField ∧
    decode (encode i) = .ok i

/-- R83, R87: every word that decodes is the encoding of what it decodes to, with its operand in range. -/
def Obligations.DecodedWordsEncodeBack : Prop :=
  ∀ (w : Word) (i : Instr), decode w = .ok i → i.wellFormed = true ∧ encode i = w

/-- opcode_table.json: each row's match and mask (and the operand range of LUTRD and SCHRD) say which words decode to it. -/
def Obligations.OpcodeTableRowsDecode : Prop :=
  ∀ w : Word,
    (decode w = .ok .nop ↔ w = 0x00000000#32) ∧
    ((∃ x, decode w = .ok (.enc x)) ↔ w &&& 0xFFFFFF00#32 = 0x01000000#32) ∧
    (decode w = .ok .encrst ↔ w = 0x02000000#32) ∧
    ((∃ c, decode w = .ok (.decc c)) ↔ w &&& 0xFFFFFF00#32 = 0x03000000#32) ∧
    (decode w = .ok .decrst ↔ w = 0x04000000#32) ∧
    (decode w = .ok .errclr ↔ w = 0x05000000#32) ∧
    ((∃ n, decode w = .ok (.xform n)) ↔ w &&& 0xFFFFFF00#32 = 0x10000000#32) ∧
    (decode w = .ok .ldbase ↔ w = 0x11000000#32) ∧
    ((∃ k, decode w = .ok (.ldbank k)) ↔ w &&& 0xFFFFF8FF#32 = 0x12000000#32) ∧
    ((∃ k j, decode w = .ok (.lutrd k j)) ↔ w &&& 0xFFFFF800#32 = 0x20000000#32 ∧ w.toNat % 256 < 16) ∧
    ((∃ k c, decode w = .ok (.lutidx k c)) ↔ w &&& 0xFFFFF800#32 = 0x21000000#32) ∧
    ((∃ j, decode w = .ok (.schrd j)) ↔ w &&& 0xFFFFFF00#32 = 0x22000000#32 ∧ w.toNat % 256 < 24)

/-- Words written out in the spec (R106, R108, R140, R141, R142, R163, R184) decode to the command they stand for. -/
def Obligations.SampleWordsDecode : Prop :=
  decode 0x01000041 = .ok (.enc 0x41) ∧ decode 0x03000075 = .ok (.decc 0x75) ∧
  decode 0x10000008 = .ok (.xform 8) ∧ decode 0x12000700 = .ok (.ldbank 7) ∧
  decode 0x20000004 = .ok (.lutrd 0 4) ∧ decode 0x2100076C = .ok (.lutidx 7 0x6C) ∧
  decode 0x22000007 = .ok (.schrd 7) ∧ decode 0x05000000 = .ok .errclr

/-- R88: the checks of a word written to CMD, in order; the first that fails decides the error, and a word that passes
runs its command to completion and raises no error. -/
def Obligations.CommandChecksRunInOrder : Prop :=
  ∀ (s : State) (w : Word) (rest : List HostEvent),
    s.resetLine = false → s.pending = .write 0 .word w :: rest →
    let opc := w.toNat / 2 ^ 24
    let rsv := w.toNat / 2 ^ 11 % 2 ^ 13
    let k := w.toNat / 2 ^ 8 % 2 ^ 3
    let a := w.toNat % 2 ^ 8
    let failsWith := fun (cause : BitVec 2) =>
      step s = .next { s with pending := rest, err := true, ecause := if s.err then s.ecause else cause }
    if opc ∉ [0x00, 0x01, 0x02, 0x03, 0x04, 0x05, 0x10, 0x11, 0x12, 0x20, 0x21, 0x22] then failsWith 1
    else if rsv ≠ 0 ∨ (opc ∉ [0x12, 0x20, 0x21] ∧ k ≠ 0) ∨ (opc ∈ [0x00, 0x02, 0x04, 0x05, 0x11, 0x12] ∧ a ≠ 0) then
      failsWith 2
    else if (opc = 0x20 ∧ 16 ≤ a) ∨ (opc = 0x22 ∧ 24 ≤ a) then failsWith 3
    else
      ∃ (i : Instr) (t : State),
        i.opc.toNat = opc ∧ i.kField.toNat = k ∧ i.aField.toNat = a ∧
        step s = exec i { s with pending := rest } ∧ step s = .next t ∧
        (if i = .errclr then t.err = false ∧ t.ecause = 0 else t.err = s.err ∧ t.ecause = s.ecause)

/-- R85: each of the 244 other opcodes is illegal, whatever the word's other bits are. -/
def Obligations.UndefinedOpcodesAreIllegal : Prop :=
  (∀ (s : State) (w : Word) (rest : List HostEvent),
    s.resetLine = false → s.pending = .write 0 .word w :: rest →
    let opc := w.toNat / 2 ^ 24
    (6 ≤ opc ∧ opc ≤ 0x0F) ∨ (0x13 ≤ opc ∧ opc ≤ 0x1F) ∨ 0x23 ≤ opc →
    step s = .next { s with pending := rest, err := true, ecause := if s.err then s.ecause else 1 }) ∧
  ((List.range 256).filter fun o => (6 ≤ o ∧ o ≤ 0x0F) ∨ (0x13 ≤ o ∧ o ≤ 0x1F) ∨ 0x23 ≤ o).length = 244

/-- R231: a word that fails a check sets ERR and ECAUSE if ERR was 0, changes nothing if it was 1, and has no other effect. -/
def Obligations.CommandErrorKeepsFirstCause : Prop :=
  ∀ (s : State) (w : Word) (e : CmdError) (rest : List HostEvent),
    s.resetLine = false → s.pending = .write 0 .word w :: rest → decode w = .error e →
    (s.err = false → step s = .next { s with pending := rest, err := true, ecause := e.code }) ∧
    (s.err = true → step s = .next { s with pending := rest })

/-- The step around exec on this machine: the write is taken off the host's list and the decoded command runs. -/
def Obligations.StepRunsDecodedCommand : Prop :=
  ∀ (s : State) (w : Word) (i : Instr) (rest : List HostEvent),
    s.resetLine = false → s.pending = .write 0 .word w :: rest → decode w = .ok i →
    step s = exec i { s with pending := rest }

/-- R262: SPTC executes nothing until the host accesses it. That such a step leaves the state as it is is the model's
choice (log entry 2). -/
def Obligations.NothingIssuedChangesNothing : Prop :=
  ∀ s : State, s.pending = [] → step s = .next s

/-- R55: what a read of each register returns; it changes no state, and two reads with no write between return the same. -/
def Obligations.ReadsReturnRegisterValues : Prop :=
  ∀ (s : State) (r : Reg) (rest : List HostEvent), s.resetLine = false →
    (s.pending = .read r.offset .word :: rest →
      ∃ v : Word, v.toNat = registerValue r s ∧
        step s = .next { s with pending := rest, returned := s.returned ++ [v] }) ∧
    (s.pending = .read r.offset .word :: .read r.offset .word :: rest →
      ∃ v : Word, runSteps 2 s = .next { s with pending := rest, returned := s.returned ++ [v, v] })

/-- R56: a write to CMD executes the command each time, to a read-only register has no effect, to WORKw replaces its
four lanes. -/
def Obligations.WritesActByRegister : Prop :=
  ∀ (s : State) (r : Reg) (v : Word) (rest : List HostEvent),
    s.resetLine = false → s.pending = .write r.offset .word v :: rest →
    match r with
    | .cmd => step s = runCommand v { s with pending := rest }
    | .result => step s = .next { s with pending := rest }
    | .status => step s = .next { s with pending := rest }
    | .dpend => step s = .next { s with pending := rest }
    | .work w =>
      ∃ a : Lanes, step s = .next { s with pending := rest, work := a } ∧
        ∀ j : Fin 16, (a.get j).toNat =
          if j.val / 4 = w.val then v.toNat / 2 ^ (8 * (j.val % 4)) % 2 ^ 8 else (s.work.get j).toNat

/-- R63, R66: a read of WORKw after a write of WORKw' returns the word written, or what WORKw held where w differs. -/
def Obligations.WorkReadsSeeTheLastWrite : Prop :=
  ∀ (s : State) (w w' : Fin 4) (v : Word) (rest : List HostEvent),
    s.resetLine = false →
    s.pending = .write (Reg.work w).offset .word v :: .read (Reg.work w').offset .word :: rest →
    ∃ t : State, runSteps 2 s = .next t ∧ t.pending = rest ∧
      t.returned = s.returned ++ [if w = w' then v else readReg (.work w') s]

/-- R53: an access at an offset of 0x20 or above is not an access to SPTC and leaves its state unchanged. That the step
answers a next state for it and returns nothing, where I5 speaks of refusing it, is the model's choice (log entry 6). -/
def Obligations.AccessesAboveWindowLeaveState : Prop :=
  ∀ (s : State) (off : Int) (size : AccessSize) (v : Word) (rest : List HostEvent), 0x20 ≤ off →
    (s.pending = .read off size :: rest → step s = .next { s with pending := rest }) ∧
    (s.pending = .write off size v :: rest → step s = .next { s with pending := rest })

/-- R52: the only access with a meaning is the 32-bit one at a multiple of 4 within the window; any other is refused. -/
def Obligations.OnlyAlignedWordAccessesAreDefined : Prop :=
  ∀ (s : State) (off : Int) (size : AccessSize) (v : Word) (rest : List HostEvent),
    s.resetLine = false → 0 ≤ off → off < 0x20 →
    (s.pending = .read off size :: rest ∨ s.pending = .write off size v :: rest) →
    if size = .word ∧ off % 4 = 0 then ∃ t : State, step s = .next t ∧ t.pending = rest
    else step s = .refused .undefinedAccess

/-- R54: SPTC_BASE is a multiple of 32, and an access at SPTC_BASE + off is one at offset off. -/
def Obligations.WindowBaseIsAlignedAndOffsetsAreRelative : Prop :=
  Config.sptcBase % 32 = 0 ∧ ∀ off : Nat, offsetOf (Config.sptcBase + off) = off

/-- R37: every element of R20 at its reset value after the reset input is deasserted, whatever the state was. -/
def Obligations.ResetGivesEveryElementItsValue : Prop :=
  ∀ (s : State) (rest : List HostEvent), s.resetLine = true → s.pending = .releaseReset :: rest →
    ∃ t : State, step s = .next t ∧ t.result = 0 ∧ t.encPos = 0 ∧ t.decPos = 0 ∧ t.decPend = false ∧ t.pchar = 0 ∧
      t.err = false ∧ t.ecause = 0 ∧ t.statusWord = 0 ∧ t.dpendWord = 0 ∧
      workWord t.work 0 = 0x6F6E6D6C ∧ workWord t.work 1 = 0x73727170 ∧
      workWord t.work 2 = 0x77767574 ∧ workWord t.work 3 = 0x7B7A7978 ∧
      t.work = t.base ∧ t.banks = bankTable ∧ t.sched = rotationSchedule ∧
      (∀ j : Fin 16, (t.base.get j).toNat = 0x6C + j.val) ∧
      t.resetLine = false ∧ t.pending = rest ∧ t.returned = s.returned

/-- R37 of State.reset itself, with the model's own fields (log entries 1 and 3: the model's choice). -/
def Obligations.ResetStateValues : Prop :=
  (∀ r : Reg, registerValue r State.reset =
    match r with
    | .cmd => 0
    | .result => 0
    | .status => 0
    | .dpend => 0
    | .work w => [0x6F6E6D6C, 0x73727170, 0x77767574, 0x7B7A7978].getD w.val 0) ∧
  State.reset.banks = bankTable ∧ State.reset.sched = rotationSchedule ∧ State.reset.base = baseAlphabet ∧
  State.reset.pending = [] ∧ State.reset.returned = [] ∧ State.reset.resetLine = false

/-- R260: while reset is asserted SPTC accepts no access to its window; that the model refuses it is its choice
(log entry 3). -/
def Obligations.NoAccessAcceptedInReset : Prop :=
  ∀ (s : State) (r : Reg) (v : Word) (rest : List HostEvent), s.resetLine = true →
    (s.pending = .read r.offset .word :: rest ∨ s.pending = .write r.offset .word v :: rest) →
    step s = .refused .accessInReset

/-- The two edges of the reset input as host events (R260); that asserting it leaves the elements as they are until it is
released, and that releasing it when it is not asserted does nothing, is the model's choice (log entry 3). -/
def Obligations.ResetLineFollowsHost : Prop :=
  ∀ (s : State) (rest : List HostEvent),
    (s.pending = .assertReset :: rest → step s = .next { s with pending := rest, resetLine := true }) ∧
    (s.resetLine = false → s.pending = .releaseReset :: rest → step s = .next { s with pending := rest })

/-- The invariants of R34 hold at reset. -/
def Obligations.ResetMeetsInvariant : Prop := State.reset.Inv

/-- Every step keeps the invariants of R34 and the tables, from every state that has them. -/
def Obligations.StepKeepsInvariant : Prop :=
  ∀ s t : State, s.Inv → step s = .next t → t.Inv

/-- R34, of every state a host program of any kind can bring the machine to from reset. -/
def Obligations.ReachableStatesAreLegal : Prop :=
  ∀ (events : List HostEvent) (k : Nat) (t : State),
    runSteps k { State.reset with pending := events } = .next t →
    t.encPos.val < 24 ∧ t.decPos.val < 24 ∧ (t.decPend = false → t.pchar = 0) ∧
    (t.decPend = true → 0x6C ≤ t.pchar.toNat ∧ t.pchar.toNat ≤ 0x7B) ∧ (t.err = false ↔ t.ecause = 0) ∧
    t.statusWord &&& 0xF8FEE0E0#32 = 0#32 ∧ t.dpendWord &&& 0xFFFFFF00#32 = 0#32 ∧ t.ResultLegal

/-- R31, R32: no command and no bus access writes the banks, the schedule or the Base Alphabet; only reset does. -/
def Obligations.TablesNeverWritten : Prop :=
  ∀ s t : State, step s = .next t →
    (t.banks = s.banks ∧ t.sched = s.sched ∧ t.base = s.base) ∨
    (s.resetLine = true ∧ ∃ rest, s.pending = .releaseReset :: rest)

/-- R28, R237: once ERR is 1, it and its cause stay until an ERRCLR word or reset. -/
def Obligations.ErrorStaysUntilCleared : Prop :=
  ∀ s t : State, s.err = true → step s = .next t →
    (t.err = true ∧ t.ecause = s.ecause) ∨
    (∃ rest, s.pending = .write 0 .word 0x05000000 :: rest) ∨
    (s.resetLine = true ∧ ∃ rest, s.pending = .releaseReset :: rest)

/-- R35, R23: which command may write which field; every field it does not name is unchanged, and no command touches the
tables or the host's side. -/
def Obligations.CommandsWriteOnlyTheirFields : Prop :=
  ∀ (i : Instr) (s t : State), i.wellFormed = true → exec i s = .next t →
    (writesResult i = false → t.result = s.result) ∧
    (encoderCommand i = false → t.encPos = s.encPos) ∧
    (decoderCommand i = false → t.decPos = s.decPos ∧ t.decPend = s.decPend ∧ t.pchar = s.pchar) ∧
    (i ≠ .errclr → t.err = s.err ∧ t.ecause = s.ecause) ∧
    (permuterCommand i = false → t.work = s.work) ∧
    t.banks = s.banks ∧ t.sched = s.sched ∧ t.base = s.base ∧
    t.pending = s.pending ∧ t.returned = s.returned ∧ t.resetLine = s.resetLine

/-- R62, R63: every access to the window that has a meaning is performed in one step, the oldest first, and a step returns
at most one value to the host. That an access outside the window (log entry 6) and the two events of the reset input (log
entry 3) are events that complete too is the model's choice. -/
def Obligations.LegalAccessesComplete : Prop :=
  ∀ (s : State) (e : HostEvent) (rest : List HostEvent), s.pending = e :: rest → e.legal s.resetLine = true →
    ∃ (t : State) (out : List Word), step s = .next t ∧ t.pending = rest ∧ t.returned = s.returned ++ out ∧ out.length ≤ 1

/-- R36: no hidden state. Two states that read the same through the window hold the same in every element of R20 but the
constant tables. -/
def Obligations.WindowShowsAllState : Prop :=
  ∀ s t : State, (∀ r : Reg, readReg r s = readReg r t) →
    s.result = t.result ∧ s.encPos = t.encPos ∧ s.decPos = t.decPos ∧ s.decPend = t.decPend ∧ s.pchar = t.pchar ∧
    s.err = t.err ∧ s.ecause = t.ecause ∧ s.work = t.work

/-- R210. -/
def Obligations.NopChangesNothing : Prop :=
  (∀ s : State, exec .nop s = .next s) ∧ decode 0x00000000#32 = .ok .nop ∧ MustBeZero 0x00 0x00FFFFFF#32

/-- R211. -/
def Obligations.ErrclrClearsError : Prop :=
  (∀ s : State, exec .errclr s = .next { s with err := false, ecause := 0 }) ∧
  decode 0x05000000#32 = .ok .errclr ∧ MustBeZero 0x05 0x00FFFFFF#32

/-- R163: ENC by the banks and the schedule the state holds. -/
def Obligations.EncWritesTwoCharacters : Prop :=
  (∀ (s : State) (x : Byte),
    let k := s.sched.get s.encPos
    let first := (s.banks.get k.toFin).get ⟨x.toNat % 16, Nat.mod_lt _ (by decide)⟩
    let second := (s.banks.get k.toFin).get ⟨x.toNat / 16 % 16, Nat.mod_lt _ (by decide)⟩
    exec (.enc x) s = .next { s with
      result := BitVec.ofNat 32 (first.toNat + 2 ^ 8 * second.toNat)
      encPos := ⟨(s.encPos.val + 1) % 24, Nat.mod_lt _ (by decide)⟩ }) ∧
  (∀ (s : State) (x : Byte), s.TablesIntact → ∃ t : State, exec (.enc x) s = .next t ∧
    inBase (busByte t.result 0) = true ∧ inBase (busByte t.result 1) = true) ∧
  (∀ x : Byte, decode (BitVec.ofNat 32 (0x01000000 + x.toNat)) = .ok (.enc x)) ∧
  MustBeZero 0x01 0x00FFFF00#32

/-- R162: the two characters of a byte in closed form, with the mask sequence as printed. -/
def Obligations.EncClosedForm : Prop :=
  ∀ (s : State) (x : Byte), s.TablesIntact →
    ∃ t : State, exec (.enc x) s = .next t ∧
      (busByte t.result 0).toNat = 0x6C + ((x.toNat % 16) ^^^ maskAt s.encPos) ∧
      (busByte t.result 1).toNat = 0x6C + ((x.toNat / 16) ^^^ maskAt s.encPos)

/-- R164. -/
def Obligations.EncrstRestartsEncoder : Prop :=
  (∀ s : State, exec .encrst s = .next { s with encPos := 0 }) ∧
  decode 0x02000000#32 = .ok .encrst ∧ MustBeZero 0x02 0x00FFFFFF#32

/-- R184: DECC of noise, of the first character of a pair, and of the second (with the held character and the tables as
R34 has them). -/
def Obligations.DeccFiltersAndPairs : Prop :=
  (∀ (s : State) (c : Byte), ¬(0x6C ≤ c.toNat ∧ c.toNat ≤ 0x7B) →
    exec (.decc c) s = .next { s with result := if s.decPend then 0x400 else 0 }) ∧
  (∀ (s : State) (c : Byte), 0x6C ≤ c.toNat → c.toNat ≤ 0x7B → s.decPend = false →
    exec (.decc c) s = .next { s with result := 0x600, pchar := c, decPend := true }) ∧
  (∀ (s : State) (c : Byte), 0x6C ≤ c.toNat → c.toNat ≤ 0x7B → s.decPend = true → s.TablesIntact → s.HeldLegal →
    ∃ posA posB : Fin 16,
      (s.banks.get (s.sched.get s.decPos).toFin).get posA = s.pchar ∧
      (s.banks.get (s.sched.get s.decPos).toFin).get posB = c ∧
      exec (.decc c) s = .next { s with
        result := BitVec.ofNat 32 (0x300 + 16 * posB.val + posA.val)
        pchar := 0
        decPend := false
        decPos := ⟨(s.decPos.val + 1) % 24, Nat.mod_lt _ (by decide)⟩ }) ∧
  (∀ c : Byte, decode (BitVec.ofNat 32 (0x03000000 + c.toNat)) = .ok (.decc c)) ∧
  MustBeZero 0x03 0x00FFFF00#32

/-- DECC of a second character in every state, reached or not: it completes, and all it writes but the byte is as R184
says. (The byte is R184's where R34 holds; elsewhere it is free, log entry 5.) -/
def Obligations.DeccSecondAlwaysCompletes : Prop :=
  ∀ (s : State) (c : Byte), 0x6C ≤ c.toNat → c.toNat ≤ 0x7B → s.decPend = true →
    ∃ x : Byte, exec (.decc c) s = .next { s with
      result := BitVec.ofNat 32 (0x300 + x.toNat)
      pchar := 0
      decPend := false
      decPos := ⟨(s.decPos.val + 1) % 24, Nat.mod_lt _ (by decide)⟩ }

/-- R182: the byte of a pair in closed form. -/
def Obligations.DeccClosedForm : Prop :=
  ∀ (s : State) (c : Byte), 0x6C ≤ c.toNat → c.toNat ≤ 0x7B → s.decPend = true → s.TablesIntact → s.HeldLegal →
    ∃ t : State, exec (.decc c) s = .next t ∧
      (busByte t.result 0).toNat =
        16 * ((c.toNat - 0x6C) ^^^ maskAt s.decPos) + ((s.pchar.toNat - 0x6C) ^^^ maskAt s.decPos)

/-- R185. -/
def Obligations.DecrstReportsAndDropsHeld : Prop :=
  (∀ s : State, exec .decrst s = .next { s with
    result := if s.decPend then 1 else 0
    decPos := 0
    decPend := false
    pchar := 0 }) ∧
  decode 0x04000000#32 = .ok .decrst ∧ MustBeZero 0x04 0x00FFFFFF#32

/-- R106: every lane takes the old lane of R103's map, which is T(WORK, n) of R100; `n = 0` and `n >= 16` leave WORK
unchanged, the lanes are only rearranged, and nothing else changes. -/
def Obligations.XformIsBlockSwap : Prop :=
  (∀ (s : State) (n : Byte), ∃ a : Lanes,
    exec (.xform n) s = .next { s with work := a } ∧
    (∀ j : Fin 16, a.get j = s.work.get (laneSource n.toNat j)) ∧
    a.toList = blockSwap s.work.toList n.toNat ∧
    (n.toNat = 0 ∨ 16 ≤ n.toNat → a = s.work) ∧ a.toList.Perm s.work.toList) ∧
  (∀ n : Byte, decode (BitVec.ofNat 32 (0x10000000 + n.toNat)) = .ok (.xform n)) ∧
  MustBeZero 0x10 0x00FFFF00#32

/-- R103: on 16 lanes the transform is the lane map, row by row as printed; 16..255 is the identity. -/
def Obligations.LaneMapIsTheTable : Prop :=
  (List.range 16).map (fun n => (List.range 16).map (laneSourceNat n)) =
    [[0, 1, 2, 3, 4, 5, 6, 7, 8, 9, 10, 11, 12, 13, 14, 15],
     [1, 0, 3, 2, 5, 4, 7, 6, 9, 8, 11, 10, 13, 12, 15, 14],
     [2, 3, 0, 1, 6, 7, 4, 5, 10, 11, 8, 9, 14, 15, 12, 13],
     [3, 4, 5, 0, 1, 2, 9, 10, 11, 6, 7, 8, 15, 12, 13, 14],
     [4, 5, 6, 7, 0, 1, 2, 3, 12, 13, 14, 15, 8, 9, 10, 11],
     [5, 6, 7, 8, 9, 0, 1, 2, 3, 4, 15, 10, 11, 12, 13, 14],
     [6, 7, 8, 9, 10, 11, 0, 1, 2, 3, 4, 5, 12, 13, 14, 15],
     [7, 8, 9, 10, 11, 12, 13, 0, 1, 2, 3, 4, 5, 6, 14, 15],
     [8, 9, 10, 11, 12, 13, 14, 15, 0, 1, 2, 3, 4, 5, 6, 7],
     [9, 10, 11, 12, 13, 14, 15, 0, 1, 2, 3, 4, 5, 6, 7, 8],
     [10, 11, 12, 13, 14, 15, 0, 1, 2, 3, 4, 5, 6, 7, 8, 9],
     [11, 12, 13, 14, 15, 0, 1, 2, 3, 4, 5, 6, 7, 8, 9, 10],
     [12, 13, 14, 15, 0, 1, 2, 3, 4, 5, 6, 7, 8, 9, 10, 11],
     [13, 14, 15, 0, 1, 2, 3, 4, 5, 6, 7, 8, 9, 10, 11, 12],
     [14, 15, 0, 1, 2, 3, 4, 5, 6, 7, 8, 9, 10, 11, 12, 13],
     [15, 0, 1, 2, 3, 4, 5, 6, 7, 8, 9, 10, 11, 12, 13, 14]] ∧
  (∀ (n : Nat) (j : Fin 16), 16 ≤ n → laneSource n j = j) ∧
  ∀ (v : Lanes) (n : Nat), blockSwap v.toList n = (List.finRange 16).map fun j => v.get (laneSource n j)

/-- R101: the transform has the length of its input and is a rearrangement of it, for every sequence and half-width. -/
def Obligations.BlockSwapRearranges : Prop :=
  ∀ (s : List Byte) (n : Nat), (blockSwap s n).length = s.length ∧ (blockSwap s n).Perm s

/-- R102: the special cases of the transform on a sequence of any length. -/
def Obligations.BlockSwapSpecialCases : Prop :=
  ∀ (s : List Byte) (n : Nat),
    blockSwap s 0 = s ∧
    (s.length ≤ n → blockSwap s n = s) ∧
    (s.length ≤ 2 * n → n < s.length → blockSwap s n = s.drop n ++ s.take n) ∧
    (0 < n → s.length % (2 * n) = 0 → ∀ j, j < s.length →
      (blockSwap s n)[j]? = s[if j % (2 * n) < n then j + n else j - n]? ∧
      ((∃ m, n = 2 ^ m) → (blockSwap s n)[j]? = s[j ^^^ n]?))

/-- R107. -/
def Obligations.LdbaseLoadsBaseAlphabet : Prop :=
  (∀ s : State, exec .ldbase s = .next { s with work := s.base }) ∧
  (∀ s : State, s.TablesIntact → ∃ t : State, exec .ldbase s = .next t ∧
    workWord t.work 0 = 0x6F6E6D6C ∧ workWord t.work 1 = 0x73727170 ∧
    workWord t.work 2 = 0x77767574 ∧ workWord t.work 3 = 0x7B7A7978) ∧
  decode 0x11000000#32 = .ok .ldbase ∧ MustBeZero 0x11 0x00FFFFFF#32

/-- R108. -/
def Obligations.LdbankCopiesBank : Prop :=
  (∀ (s : State) (k : BankIx), exec (.ldbank k) s = .next { s with work := s.banks.get k.toFin }) ∧
  (∀ k : BankIx, decode (BitVec.ofNat 32 (0x12000000 + 0x100 * k.toNat)) = .ok (.ldbank k)) ∧
  MustBeZero 0x12 0x00FFF8FF#32

/-- R140: the entry for an index below 16, always a base-set code; the error of check 3 for any other index. -/
def Obligations.LutrdReadsEntry : Prop :=
  (∀ (s : State) (k : BankIx) (j : Byte) (h : j.toNat < 16),
    exec (.lutrd k j) s = .next { s with
      result := BitVec.ofNat 32 ((s.banks.get k.toFin).get ⟨j.toNat, h⟩).toNat }) ∧
  (∀ (s : State) (k : BankIx) (j : Byte), s.TablesIntact → j.toNat < 16 →
    ∃ t : State, exec (.lutrd k j) s = .next t ∧ 0x6C ≤ t.result.toNat ∧ t.result.toNat ≤ 0x7B) ∧
  (∀ w : Word, w &&& 0xFFFFF800#32 = 0x20000000#32 → 16 ≤ w.toNat % 256 → decode w = .error .operandRange) ∧
  (∀ (k : BankIx) (j : Byte), j.toNat < 16 →
    decode (BitVec.ofNat 32 (0x20000000 + 0x100 * k.toNat + j.toNat)) = .ok (.lutrd k j)) ∧
  MustBeZero 0x20 0x00FFF800#32

/-- R141: FOUND and the index of a base-set character, with the tables as R133 has them; noise gives 0. -/
def Obligations.LutidxFindsCharacter : Prop :=
  (∀ (s : State) (k : BankIx) (c : Byte), s.TablesIntact → 0x6C ≤ c.toNat → c.toNat ≤ 0x7B →
    ∃ j : Fin 16, (s.banks.get k.toFin).get j = c ∧
      exec (.lutidx k c) s = .next { s with result := BitVec.ofNat 32 (0x100 + j.val) }) ∧
  (∀ (s : State) (k : BankIx) (c : Byte), ¬(0x6C ≤ c.toNat ∧ c.toNat ≤ 0x7B) →
    exec (.lutidx k c) s = .next { s with result := 0 }) ∧
  (∀ (s : State) (k : BankIx) (j : Fin 16), s.TablesIntact →
    exec (.lutidx k ((s.banks.get k.toFin).get j)) s = .next { s with result := BitVec.ofNat 32 (0x100 + j.val) }) ∧
  (∀ (k : BankIx) (c : Byte),
    decode (BitVec.ofNat 32 (0x21000000 + 0x100 * k.toNat + c.toNat)) = .ok (.lutidx k c)) ∧
  MustBeZero 0x21 0x00FFF800#32

/-- R142: the schedule entry for an index below 24, the literal of R137 where the tables are intact; the error of check 3
for any other index, with no wrap. -/
def Obligations.SchrdReadsEntry : Prop :=
  (∀ (s : State) (j : Byte) (h : j.toNat < 24),
    exec (.schrd j) s = .next { s with result := BitVec.ofNat 32 (s.sched.get ⟨j.toNat, h⟩).toNat }) ∧
  (∀ (s : State) (j : Byte), s.TablesIntact → j.toNat < 24 →
    ∃ t : State, exec (.schrd j) s = .next t ∧ t.result.toNat =
      [0, 1, 2, 3, 4, 0, 3, 5, 2, 1, 5, 4, 3, 6, 6, 2, 4, 2, 2, 4, 3, 2, 7, 7].getD j.toNat 0) ∧
  (∀ w : Word, w &&& 0xFFFFFF00#32 = 0x22000000#32 → 24 ≤ w.toNat % 256 → decode w = .error .operandRange) ∧
  (∀ j : Byte, j.toNat < 24 → decode (BitVec.ofNat 32 (0x22000000 + j.toNat)) = .ok (.schrd j)) ∧
  MustBeZero 0x22 0x00FFFF00#32

/-- LUTRD and SCHRD of an index that names no entry, as terms: the error of check 3 and nothing else. The decoder gives no
such term; that exec answers so is the model's choice (log entry 17). -/
def Obligations.OutOfRangeIndexRaisesError : Prop :=
  (∀ (s : State) (k : BankIx) (j : Byte), 16 ≤ j.toNat →
    exec (.lutrd k j) s = .next { s with err := true, ecause := if s.err then s.ecause else 3 }) ∧
  ∀ (s : State) (j : Byte), 24 ≤ j.toNat →
    exec (.schrd j) s = .next { s with err := true, ecause := if s.err then s.ecause else 3 }

/-- R132, R133: the compositions of R132, computed with the transform of R100 and with the network of R103, are the table of
R133. -/
def Obligations.BankTableIsTheCompositions : Prop :=
  keySchedule baseAlphabet = bankTable ∧
  ∀ k : Fin 8, (bankTable.get k).toList =
    (([[8], [4, 1], [8, 1], [1], [4], [2], [2, 1], [4, 2, 1]] : List (List Nat)).getD k.val []).foldl blockSwap
      baseAlphabet.toList

/-- R134, R135: every bank is the index-XOR of the Base Alphabet by its mask, and a permutation of it. -/
def Obligations.BanksAreIndexXor : Prop :=
  (∀ (k : Fin 8) (j : Fin 16), ((bankTable.get k).get j).toNat =
    0x6C + (j.val ^^^ ([8, 5, 9, 1, 4, 2, 3, 7].getD k.val 0))) ∧
  ∀ k : Fin 8, (bankTable.get k).toList.Perm baseAlphabet.toList

/-- R136: idx of a base-set character in a bank is the unique place and the XOR form, and a code occurs in a bank exactly if
it is in the base set. -/
def Obligations.IdxIsUniquePlace : Prop :=
  ∀ (k : BankIx) (c : Byte),
    ((∃ j : Fin 16, (bankTable.get k.toFin).get j = c) ↔ 0x6C ≤ c.toNat ∧ c.toNat ≤ 0x7B) ∧
    (0x6C ≤ c.toNat → c.toNat ≤ 0x7B →
      (idx (bankAt bankTable k) c).toNat = (c.toNat - 0x6C) ^^^ ([8, 5, 9, 1, 4, 2, 3, 7].getD k.toNat 0) ∧
      ∀ j : Fin 16, (bankTable.get k.toFin).get j = c ↔ j.val = (idx (bankAt bankTable k) c).toNat)

/-- R109: LDBASE and the XFORM chain of a bank leave WORK equal to that bank, from any state. -/
def Obligations.BaseAndChainRebuildBank : Prop :=
  ∀ (s : State) (k : Fin 8) (rest : List HostEvent), s.TablesIntact → s.resetLine = false →
    let chain : List Byte :=
      ([[8], [4, 1], [8, 1], [1], [4], [2], [2, 1], [4, 2, 1]] : List (List Byte)).getD k.val []
    s.pending = cmdStatement .ldbase :: xformsProgram chain ++ rest →
    runSteps (1 + chain.length) s = .next { s with pending := rest, work := s.banks.get k }

/-- R165: ENCODE run from any state returns, two characters a read, the text `encode(p)` of R160. -/
def Obligations.EncodeStreamIsSourceEncode : Prop :=
  ∀ (s : State) (p : List Byte) (rest : List HostEvent), s.TablesIntact → s.resetLine = false →
    s.pending = encodeProgram p ++ rest →
    ∃ (t : State) (reads : List Word), runSteps (1 + 2 * p.length) s = .next t ∧ t.pending = rest ∧
      t.returned = s.returned ++ reads ∧ reads.length = p.length ∧ (∀ v ∈ reads, v.toNat < 2 ^ 16) ∧
      encodeOutput reads = sourceEncode p ∧ t.encPos.val = p.length % 24

/-- R186: DECODE run from any state returns the bytes of `decode(t)` of R180; its final DECRST reports an odd number of
base-set characters and leaves the decoder empty. -/
def Obligations.DecodeStreamIsSourceDecode : Prop :=
  ∀ (s : State) (text : List Byte) (rest : List HostEvent), s.TablesIntact → s.resetLine = false →
    s.pending = decodeProgram text ++ rest →
    ∃ (t : State) (reads : List Word), runSteps (2 + 2 * text.length) s = .next t ∧ t.pending = rest ∧
      t.returned = s.returned ++ reads ∧ reads.length = text.length ∧ decodeOutput reads = sourceDecode text ∧
      t.result = (if (sourceFilter text).length % 2 = 1 then 1 else 0) ∧ t.decPos = 0 ∧ t.decPend = false

/-- R187: decode of encode is the identity; as commands, what an ENCODE stream returns, fed to a DECODE stream on any other
state, returns the bytes. -/
def Obligations.StreamsRoundTrip : Prop :=
  (∀ p : List Byte, sourceDecode (sourceEncode p) = p) ∧
  ∀ (s : State) (p : List Byte) (rest : List HostEvent), s.TablesIntact → s.resetLine = false →
    s.pending = encodeProgram p ++ rest →
    ∃ (t : State) (reads : List Word), runSteps (1 + 2 * p.length) s = .next t ∧ t.returned = s.returned ++ reads ∧
      ∀ (u : State) (rest' : List HostEvent), u.TablesIntact → u.resetLine = false →
        u.pending = decodeProgram (encodeOutput reads) ++ rest' →
        ∃ (v : State) (reads' : List Word), runSteps (2 + 4 * p.length) u = .next v ∧
          v.returned = u.returned ++ reads' ∧ decodeOutput reads' = p

/-- R188: noise interleaved with the encoded text changes nothing. -/
def Obligations.DecodeIgnoresInterleavedNoise : Prop :=
  ∀ p noise text : List Byte, (∀ c ∈ noise, ¬(0x6C ≤ c.toNat ∧ c.toNat ≤ 0x7B)) →
    Interleaving (sourceEncode p) noise text → sourceDecode text = p

/-- R189: an odd filtered length drops exactly the last filtered character. -/
def Obligations.OddTextDropsLastCharacter : Prop :=
  ∀ text : List Byte, (sourceFilter text).length % 2 = 1 →
    sourceDecode text = sourceDecode (sourceFilter text).dropLast

/-- R190: re-encoding the decoded text gives the filtered text with a last odd character removed. -/
def Obligations.ReencodingGivesFilteredText : Prop :=
  ∀ text : List Byte,
    sourceEncode (sourceDecode text) = (sourceFilter text).take (2 * ((sourceFilter text).length / 2))

/-- R161, R181: the lengths of encode and decode, and encode's characters are in the base set. -/
def Obligations.EncodeAndDecodeLengths : Prop :=
  (∀ p : List Byte, (sourceEncode p).length = 2 * p.length ∧
    ∀ c ∈ sourceEncode p, 0x6C ≤ c.toNat ∧ c.toNat ≤ 0x7B) ∧
  ∀ text : List Byte, (sourceDecode text).length =
    (text.filter fun c => decide (0x6C ≤ c.toNat ∧ c.toNat ≤ 0x7B)).length / 2

/-- R166: an encoder command and any other command may be performed in either order: the fields end the same, and each
result is what it is in the other order. -/
def Obligations.EncoderInterleavesWithOthers : Prop :=
  ∀ (e o : Instr) (s : State), encoderCommand e = true → encoderCommand o = false →
    ∃ so se soe seo : State,
      exec o s = .next so ∧ exec e s = .next se ∧ exec e so = .next soe ∧ exec o se = .next seo ∧
      { soe with result := 0 } = { seo with result := 0 } ∧
      (writesResult e = true → soe.result = se.result) ∧
      (writesResult o = true → o.wellFormed = true → seo.result = so.result)
end

