-- ==== Sys2Proof/Laws/Decode.lean ====
section
/-! SUPPORT. The fields of a command word as numbers, and the inversion of the decoder. -/

namespace Sys2Proof

/-- `w[31:24]` as a number. -/
theorem opcOf_toNat (w : Word) : (opcOf w).toNat = w.toNat / 2 ^ 24 := by
  simp [opcOf, Nat.shiftRight_eq_div_pow]; omega

/-- `w[23:11]` as a number. -/
theorem rsvOf_toNat (w : Word) : (rsvOf w).toNat = w.toNat / 2 ^ 11 % 2 ^ 13 := by
  simp [rsvOf, Nat.shiftRight_eq_div_pow]

/-- `w[10:8]` as a number. -/
theorem kOf_toNat (w : Word) : (kOf w).toNat = w.toNat / 2 ^ 8 % 2 ^ 3 := by
  simp [kOf, Nat.shiftRight_eq_div_pow]

/-- `w[7:0]` as a number. -/
theorem aOf_toNat (w : Word) : (aOf w).toNat = w.toNat % 2 ^ 8 := by simp [aOf]

/-- A word is its four fields (R81). -/
theorem toNat_eq_fields (w : Word) :
    w.toNat = (opcOf w).toNat * 2 ^ 24 + (rsvOf w).toNat * 2 ^ 11 + (kOf w).toNat * 2 ^ 8 + (aOf w).toNat := by
  rw [opcOf_toNat, rsvOf_toNat, kOf_toNat, aOf_toNat]; omega

/-- What it is for `i` to be the command of an opcode with these operands. -/
def IsCommandOf (o : BitVec 8) (k : BankIx) (a : Byte) (i : Instr) : Prop :=
  i.opc = o ∧ i.kField = (if bankOpcodes.contains o then k else 0) ∧
    i.aField = (if noOperandOpcodes.contains o then 0 else a) ∧
    (i.wellFormed = true ↔ ¬((o = 0x20 ∧ lutrdInRange a = false) ∨ (o = 0x22 ∧ schrdInRange a = false)))

/-- The command an opcode names has that opcode, its operands, and is well formed exactly if check 3 passes (R83). -/
theorem instrOf_some {o : BitVec 8} {k : BankIx} {a : Byte} {i : Instr} (h : instrOf o k a = some i) :
    IsCommandOf o k a i := by
  have arm : ∀ (o' : BitVec 8) (j : Instr) (r : Option Instr), (o = o' → IsCommandOf o k a j) →
      (if o = o' then some j else r) = some i → IsCommandOf o k a i ∨ r = some i := by
    intro o' j r hj hr
    split at hr
    · rename_i ho; cases hr; exact Or.inl (hj ho)
    · exact Or.inr hr
  unfold instrOf at h
  iterate 12
    refine (arm _ _ _ (by rintro rfl; refine ⟨rfl, rfl, rfl, ?_⟩; simp [Instr.wellFormed]) h).elim id (fun h' => ?_)
    clear h
    have h := h'
    clear h'
  cases h

/-- An opcode names a command exactly if it is one of the twelve (R83, R85). -/
theorem instrOf_none_iff (o : BitVec 8) (k : BankIx) (a : Byte) : instrOf o k a = none ↔ o ∉ definedOpcodes := by
  have arm : ∀ (o' : BitVec 8) (j : Instr) (r : Option Instr) (l : List (BitVec 8)), (r = none ↔ o ∉ l) →
      ((if o = o' then some j else r) = none ↔ o ∉ o' :: l) := by
    intro o' j r l hr
    by_cases ho : o = o' <;> simp [ho, hr]
  unfold instrOf definedOpcodes
  iterate 12 refine arm _ _ _ _ ?_
  simp

/-- A word that decodes: its fields are its command's, RSV is 0 and the operand is in range (R88). -/
theorem decode_ok {w : Word} {i : Instr} (h : decode w = .ok i) :
    i.opc = opcOf w ∧ rsvOf w = 0 ∧ i.kField = kOf w ∧ i.aField = aOf w ∧ i.wellFormed = true := by
  unfold decode at h
  split at h
  · cases h
  · rename_i j hj
    obtain ⟨h1, h2, h3, h4⟩ := instrOf_some hj
    split at h
    · cases h
    · rename_i hr
      split at h
      · cases h
      · rename_i ho
        cases h
        simp only [reservedNonZero, outOfRange, Bool.or_eq_true, Bool.and_eq_true, not_or] at hr ho
        simp at hr ho
        refine ⟨h1, hr.1.1, ?_, ?_, ?_⟩
        · rw [h2]; split
          · rfl
          · rename_i hb; exact (hr.1.2 (by simpa using hb)).symm
        · rw [h3]; split
          · rename_i hb; exact (hr.2 (by simpa using hb)).symm
          · rfl
        · rw [h4]; rintro (⟨h5, h6⟩ | ⟨h5, h6⟩)
          · rw [ho.1 h5] at h6; cases h6
          · rw [ho.2 h5] at h6; cases h6

/-- The decoder as the list of checks of R88, in order. -/
theorem decode_by_checks (w : Word) :
    (opcOf w ∉ definedOpcodes ∧ decode w = .error .illegalOpcode) ∨
    (opcOf w ∈ definedOpcodes ∧ reservedNonZero w = true ∧ decode w = .error .reservedField) ∨
    (opcOf w ∈ definedOpcodes ∧ reservedNonZero w = false ∧ outOfRange w = true ∧ decode w = .error .operandRange) ∨
    (opcOf w ∈ definedOpcodes ∧ reservedNonZero w = false ∧ outOfRange w = false ∧ ∃ i, decode w = .ok i) := by
  cases hi : instrOf (opcOf w) (kOf w) (aOf w) with
  | none => exact Or.inl ⟨(instrOf_none_iff _ _ _).1 hi, by simp [decode, hi]⟩
  | some i =>
    have hd : opcOf w ∈ definedOpcodes := by
      by_contra hn
      rw [(instrOf_none_iff _ _ _).2 hn] at hi
      cases hi
    refine Or.inr ?_
    cases hr : reservedNonZero w with
    | true => exact Or.inl ⟨hd, rfl, by simp [decode, hi, hr]⟩
    | false =>
      refine Or.inr ?_
      cases ho : outOfRange w with
      | true => exact Or.inl ⟨hd, rfl, rfl, by simp [decode, hi, hr, ho]⟩
      | false => exact Or.inr ⟨hd, rfl, rfl, i, by simp [decode, hi, hr, ho]⟩

end Sys2Proof
end

