-- ==== Sys2Proof/Laws/State.lean ====
section
/-! SUPPORT. One lemma per field per update of State, so that no proof unfolds a record update. -/

namespace Sys2Proof.Machine

@[simp] theorem setResult_result (s : State) (v : Word) : (s.setResult v).result = v := rfl
@[simp] theorem setResult_encPos (s : State) (v : Word) : (s.setResult v).encPos = s.encPos := rfl
@[simp] theorem setResult_decPos (s : State) (v : Word) : (s.setResult v).decPos = s.decPos := rfl
@[simp] theorem setResult_decPend (s : State) (v : Word) : (s.setResult v).decPend = s.decPend := rfl
@[simp] theorem setResult_pchar (s : State) (v : Word) : (s.setResult v).pchar = s.pchar := rfl
@[simp] theorem setResult_err (s : State) (v : Word) : (s.setResult v).err = s.err := rfl
@[simp] theorem setResult_ecause (s : State) (v : Word) : (s.setResult v).ecause = s.ecause := rfl
@[simp] theorem setResult_work (s : State) (v : Word) : (s.setResult v).work = s.work := rfl
@[simp] theorem setResult_banks (s : State) (v : Word) : (s.setResult v).banks = s.banks := rfl
@[simp] theorem setResult_sched (s : State) (v : Word) : (s.setResult v).sched = s.sched := rfl
@[simp] theorem setResult_base (s : State) (v : Word) : (s.setResult v).base = s.base := rfl
@[simp] theorem setResult_pending (s : State) (v : Word) : (s.setResult v).pending = s.pending := rfl
@[simp] theorem setResult_returned (s : State) (v : Word) : (s.setResult v).returned = s.returned := rfl
@[simp] theorem setResult_resetLine (s : State) (v : Word) : (s.setResult v).resetLine = s.resetLine := rfl

@[simp] theorem setEncPos_result (s : State) (p : Position) : (s.setEncPos p).result = s.result := rfl
@[simp] theorem setEncPos_encPos (s : State) (p : Position) : (s.setEncPos p).encPos = p := rfl
@[simp] theorem setEncPos_decPos (s : State) (p : Position) : (s.setEncPos p).decPos = s.decPos := rfl
@[simp] theorem setEncPos_decPend (s : State) (p : Position) : (s.setEncPos p).decPend = s.decPend := rfl
@[simp] theorem setEncPos_pchar (s : State) (p : Position) : (s.setEncPos p).pchar = s.pchar := rfl
@[simp] theorem setEncPos_err (s : State) (p : Position) : (s.setEncPos p).err = s.err := rfl
@[simp] theorem setEncPos_ecause (s : State) (p : Position) : (s.setEncPos p).ecause = s.ecause := rfl
@[simp] theorem setEncPos_work (s : State) (p : Position) : (s.setEncPos p).work = s.work := rfl
@[simp] theorem setEncPos_banks (s : State) (p : Position) : (s.setEncPos p).banks = s.banks := rfl
@[simp] theorem setEncPos_sched (s : State) (p : Position) : (s.setEncPos p).sched = s.sched := rfl
@[simp] theorem setEncPos_base (s : State) (p : Position) : (s.setEncPos p).base = s.base := rfl
@[simp] theorem setEncPos_pending (s : State) (p : Position) : (s.setEncPos p).pending = s.pending := rfl
@[simp] theorem setEncPos_returned (s : State) (p : Position) : (s.setEncPos p).returned = s.returned := rfl
@[simp] theorem setEncPos_resetLine (s : State) (p : Position) : (s.setEncPos p).resetLine = s.resetLine := rfl

@[simp] theorem setDecPos_result (s : State) (p : Position) : (s.setDecPos p).result = s.result := rfl
@[simp] theorem setDecPos_encPos (s : State) (p : Position) : (s.setDecPos p).encPos = s.encPos := rfl
@[simp] theorem setDecPos_decPos (s : State) (p : Position) : (s.setDecPos p).decPos = p := rfl
@[simp] theorem setDecPos_decPend (s : State) (p : Position) : (s.setDecPos p).decPend = s.decPend := rfl
@[simp] theorem setDecPos_pchar (s : State) (p : Position) : (s.setDecPos p).pchar = s.pchar := rfl
@[simp] theorem setDecPos_err (s : State) (p : Position) : (s.setDecPos p).err = s.err := rfl
@[simp] theorem setDecPos_ecause (s : State) (p : Position) : (s.setDecPos p).ecause = s.ecause := rfl
@[simp] theorem setDecPos_work (s : State) (p : Position) : (s.setDecPos p).work = s.work := rfl
@[simp] theorem setDecPos_banks (s : State) (p : Position) : (s.setDecPos p).banks = s.banks := rfl
@[simp] theorem setDecPos_sched (s : State) (p : Position) : (s.setDecPos p).sched = s.sched := rfl
@[simp] theorem setDecPos_base (s : State) (p : Position) : (s.setDecPos p).base = s.base := rfl
@[simp] theorem setDecPos_pending (s : State) (p : Position) : (s.setDecPos p).pending = s.pending := rfl
@[simp] theorem setDecPos_returned (s : State) (p : Position) : (s.setDecPos p).returned = s.returned := rfl
@[simp] theorem setDecPos_resetLine (s : State) (p : Position) : (s.setDecPos p).resetLine = s.resetLine := rfl

@[simp] theorem holdChar_result (s : State) (c : Byte) : (s.holdChar c).result = s.result := rfl
@[simp] theorem holdChar_encPos (s : State) (c : Byte) : (s.holdChar c).encPos = s.encPos := rfl
@[simp] theorem holdChar_decPos (s : State) (c : Byte) : (s.holdChar c).decPos = s.decPos := rfl
@[simp] theorem holdChar_decPend (s : State) (c : Byte) : (s.holdChar c).decPend = true := rfl
@[simp] theorem holdChar_pchar (s : State) (c : Byte) : (s.holdChar c).pchar = c := rfl
@[simp] theorem holdChar_err (s : State) (c : Byte) : (s.holdChar c).err = s.err := rfl
@[simp] theorem holdChar_ecause (s : State) (c : Byte) : (s.holdChar c).ecause = s.ecause := rfl
@[simp] theorem holdChar_work (s : State) (c : Byte) : (s.holdChar c).work = s.work := rfl
@[simp] theorem holdChar_banks (s : State) (c : Byte) : (s.holdChar c).banks = s.banks := rfl
@[simp] theorem holdChar_sched (s : State) (c : Byte) : (s.holdChar c).sched = s.sched := rfl
@[simp] theorem holdChar_base (s : State) (c : Byte) : (s.holdChar c).base = s.base := rfl
@[simp] theorem holdChar_pending (s : State) (c : Byte) : (s.holdChar c).pending = s.pending := rfl
@[simp] theorem holdChar_returned (s : State) (c : Byte) : (s.holdChar c).returned = s.returned := rfl
@[simp] theorem holdChar_resetLine (s : State) (c : Byte) : (s.holdChar c).resetLine = s.resetLine := rfl

@[simp] theorem dropChar_result (s : State) : (s.dropChar).result = s.result := rfl
@[simp] theorem dropChar_encPos (s : State) : (s.dropChar).encPos = s.encPos := rfl
@[simp] theorem dropChar_decPos (s : State) : (s.dropChar).decPos = s.decPos := rfl
@[simp] theorem dropChar_decPend (s : State) : (s.dropChar).decPend = false := rfl
@[simp] theorem dropChar_pchar (s : State) : (s.dropChar).pchar = 0 := rfl
@[simp] theorem dropChar_err (s : State) : (s.dropChar).err = s.err := rfl
@[simp] theorem dropChar_ecause (s : State) : (s.dropChar).ecause = s.ecause := rfl
@[simp] theorem dropChar_work (s : State) : (s.dropChar).work = s.work := rfl
@[simp] theorem dropChar_banks (s : State) : (s.dropChar).banks = s.banks := rfl
@[simp] theorem dropChar_sched (s : State) : (s.dropChar).sched = s.sched := rfl
@[simp] theorem dropChar_base (s : State) : (s.dropChar).base = s.base := rfl
@[simp] theorem dropChar_pending (s : State) : (s.dropChar).pending = s.pending := rfl
@[simp] theorem dropChar_returned (s : State) : (s.dropChar).returned = s.returned := rfl
@[simp] theorem dropChar_resetLine (s : State) : (s.dropChar).resetLine = s.resetLine := rfl

@[simp] theorem setWork_result (s : State) (v : Lanes) : (s.setWork v).result = s.result := rfl
@[simp] theorem setWork_encPos (s : State) (v : Lanes) : (s.setWork v).encPos = s.encPos := rfl
@[simp] theorem setWork_decPos (s : State) (v : Lanes) : (s.setWork v).decPos = s.decPos := rfl
@[simp] theorem setWork_decPend (s : State) (v : Lanes) : (s.setWork v).decPend = s.decPend := rfl
@[simp] theorem setWork_pchar (s : State) (v : Lanes) : (s.setWork v).pchar = s.pchar := rfl
@[simp] theorem setWork_err (s : State) (v : Lanes) : (s.setWork v).err = s.err := rfl
@[simp] theorem setWork_ecause (s : State) (v : Lanes) : (s.setWork v).ecause = s.ecause := rfl
@[simp] theorem setWork_work (s : State) (v : Lanes) : (s.setWork v).work = v := rfl
@[simp] theorem setWork_banks (s : State) (v : Lanes) : (s.setWork v).banks = s.banks := rfl
@[simp] theorem setWork_sched (s : State) (v : Lanes) : (s.setWork v).sched = s.sched := rfl
@[simp] theorem setWork_base (s : State) (v : Lanes) : (s.setWork v).base = s.base := rfl
@[simp] theorem setWork_pending (s : State) (v : Lanes) : (s.setWork v).pending = s.pending := rfl
@[simp] theorem setWork_returned (s : State) (v : Lanes) : (s.setWork v).returned = s.returned := rfl
@[simp] theorem setWork_resetLine (s : State) (v : Lanes) : (s.setWork v).resetLine = s.resetLine := rfl

@[simp] theorem setError_result (s : State) (e : Bool) (x : BitVec 2) : (s.setError e x).result = s.result := rfl
@[simp] theorem setError_encPos (s : State) (e : Bool) (x : BitVec 2) : (s.setError e x).encPos = s.encPos := rfl
@[simp] theorem setError_decPos (s : State) (e : Bool) (x : BitVec 2) : (s.setError e x).decPos = s.decPos := rfl
@[simp] theorem setError_decPend (s : State) (e : Bool) (x : BitVec 2) : (s.setError e x).decPend = s.decPend := rfl
@[simp] theorem setError_pchar (s : State) (e : Bool) (x : BitVec 2) : (s.setError e x).pchar = s.pchar := rfl
@[simp] theorem setError_err (s : State) (e : Bool) (x : BitVec 2) : (s.setError e x).err = e := rfl
@[simp] theorem setError_ecause (s : State) (e : Bool) (x : BitVec 2) : (s.setError e x).ecause = x := rfl
@[simp] theorem setError_work (s : State) (e : Bool) (x : BitVec 2) : (s.setError e x).work = s.work := rfl
@[simp] theorem setError_banks (s : State) (e : Bool) (x : BitVec 2) : (s.setError e x).banks = s.banks := rfl
@[simp] theorem setError_sched (s : State) (e : Bool) (x : BitVec 2) : (s.setError e x).sched = s.sched := rfl
@[simp] theorem setError_base (s : State) (e : Bool) (x : BitVec 2) : (s.setError e x).base = s.base := rfl
@[simp] theorem setError_pending (s : State) (e : Bool) (x : BitVec 2) : (s.setError e x).pending = s.pending := rfl
@[simp] theorem setError_returned (s : State) (e : Bool) (x : BitVec 2) : (s.setError e x).returned = s.returned := rfl
@[simp] theorem setError_resetLine (s : State) (e : Bool) (x : BitVec 2) : (s.setError e x).resetLine = s.resetLine := rfl

@[simp] theorem setPending_result (s : State) (q : List HostEvent) : (s.setPending q).result = s.result := rfl
@[simp] theorem setPending_encPos (s : State) (q : List HostEvent) : (s.setPending q).encPos = s.encPos := rfl
@[simp] theorem setPending_decPos (s : State) (q : List HostEvent) : (s.setPending q).decPos = s.decPos := rfl
@[simp] theorem setPending_decPend (s : State) (q : List HostEvent) : (s.setPending q).decPend = s.decPend := rfl
@[simp] theorem setPending_pchar (s : State) (q : List HostEvent) : (s.setPending q).pchar = s.pchar := rfl
@[simp] theorem setPending_err (s : State) (q : List HostEvent) : (s.setPending q).err = s.err := rfl
@[simp] theorem setPending_ecause (s : State) (q : List HostEvent) : (s.setPending q).ecause = s.ecause := rfl
@[simp] theorem setPending_work (s : State) (q : List HostEvent) : (s.setPending q).work = s.work := rfl
@[simp] theorem setPending_banks (s : State) (q : List HostEvent) : (s.setPending q).banks = s.banks := rfl
@[simp] theorem setPending_sched (s : State) (q : List HostEvent) : (s.setPending q).sched = s.sched := rfl
@[simp] theorem setPending_base (s : State) (q : List HostEvent) : (s.setPending q).base = s.base := rfl
@[simp] theorem setPending_pending (s : State) (q : List HostEvent) : (s.setPending q).pending = q := rfl
@[simp] theorem setPending_returned (s : State) (q : List HostEvent) : (s.setPending q).returned = s.returned := rfl
@[simp] theorem setPending_resetLine (s : State) (q : List HostEvent) : (s.setPending q).resetLine = s.resetLine := rfl

@[simp] theorem pushReturned_result (s : State) (v : Word) : (s.pushReturned v).result = s.result := rfl
@[simp] theorem pushReturned_encPos (s : State) (v : Word) : (s.pushReturned v).encPos = s.encPos := rfl
@[simp] theorem pushReturned_decPos (s : State) (v : Word) : (s.pushReturned v).decPos = s.decPos := rfl
@[simp] theorem pushReturned_decPend (s : State) (v : Word) : (s.pushReturned v).decPend = s.decPend := rfl
@[simp] theorem pushReturned_pchar (s : State) (v : Word) : (s.pushReturned v).pchar = s.pchar := rfl
@[simp] theorem pushReturned_err (s : State) (v : Word) : (s.pushReturned v).err = s.err := rfl
@[simp] theorem pushReturned_ecause (s : State) (v : Word) : (s.pushReturned v).ecause = s.ecause := rfl
@[simp] theorem pushReturned_work (s : State) (v : Word) : (s.pushReturned v).work = s.work := rfl
@[simp] theorem pushReturned_banks (s : State) (v : Word) : (s.pushReturned v).banks = s.banks := rfl
@[simp] theorem pushReturned_sched (s : State) (v : Word) : (s.pushReturned v).sched = s.sched := rfl
@[simp] theorem pushReturned_base (s : State) (v : Word) : (s.pushReturned v).base = s.base := rfl
@[simp] theorem pushReturned_pending (s : State) (v : Word) : (s.pushReturned v).pending = s.pending := rfl
@[simp] theorem pushReturned_returned (s : State) (v : Word) : (s.pushReturned v).returned = s.returned ++ [v] := rfl
@[simp] theorem pushReturned_resetLine (s : State) (v : Word) : (s.pushReturned v).resetLine = s.resetLine := rfl

@[simp] theorem setResetLine_result (s : State) (b : Bool) : (s.setResetLine b).result = s.result := rfl
@[simp] theorem setResetLine_encPos (s : State) (b : Bool) : (s.setResetLine b).encPos = s.encPos := rfl
@[simp] theorem setResetLine_decPos (s : State) (b : Bool) : (s.setResetLine b).decPos = s.decPos := rfl
@[simp] theorem setResetLine_decPend (s : State) (b : Bool) : (s.setResetLine b).decPend = s.decPend := rfl
@[simp] theorem setResetLine_pchar (s : State) (b : Bool) : (s.setResetLine b).pchar = s.pchar := rfl
@[simp] theorem setResetLine_err (s : State) (b : Bool) : (s.setResetLine b).err = s.err := rfl
@[simp] theorem setResetLine_ecause (s : State) (b : Bool) : (s.setResetLine b).ecause = s.ecause := rfl
@[simp] theorem setResetLine_work (s : State) (b : Bool) : (s.setResetLine b).work = s.work := rfl
@[simp] theorem setResetLine_banks (s : State) (b : Bool) : (s.setResetLine b).banks = s.banks := rfl
@[simp] theorem setResetLine_sched (s : State) (b : Bool) : (s.setResetLine b).sched = s.sched := rfl
@[simp] theorem setResetLine_base (s : State) (b : Bool) : (s.setResetLine b).base = s.base := rfl
@[simp] theorem setResetLine_pending (s : State) (b : Bool) : (s.setResetLine b).pending = s.pending := rfl
@[simp] theorem setResetLine_returned (s : State) (b : Bool) : (s.setResetLine b).returned = s.returned := rfl
@[simp] theorem setResetLine_resetLine (s : State) (b : Bool) : (s.setResetLine b).resetLine = b := rfl

@[simp] theorem afterReset_result (s : State) : s.afterReset.result = State.reset.result := rfl
@[simp] theorem afterReset_encPos (s : State) : s.afterReset.encPos = State.reset.encPos := rfl
@[simp] theorem afterReset_decPos (s : State) : s.afterReset.decPos = State.reset.decPos := rfl
@[simp] theorem afterReset_decPend (s : State) : s.afterReset.decPend = State.reset.decPend := rfl
@[simp] theorem afterReset_pchar (s : State) : s.afterReset.pchar = State.reset.pchar := rfl
@[simp] theorem afterReset_err (s : State) : s.afterReset.err = State.reset.err := rfl
@[simp] theorem afterReset_ecause (s : State) : s.afterReset.ecause = State.reset.ecause := rfl
@[simp] theorem afterReset_work (s : State) : s.afterReset.work = State.reset.work := rfl
@[simp] theorem afterReset_banks (s : State) : s.afterReset.banks = State.reset.banks := rfl
@[simp] theorem afterReset_sched (s : State) : s.afterReset.sched = State.reset.sched := rfl
@[simp] theorem afterReset_base (s : State) : s.afterReset.base = State.reset.base := rfl
@[simp] theorem afterReset_pending (s : State) : s.afterReset.pending = s.pending := rfl
@[simp] theorem afterReset_returned (s : State) : s.afterReset.returned = s.returned := rfl
@[simp] theorem afterReset_resetLine (s : State) : s.afterReset.resetLine = State.reset.resetLine := rfl

end Sys2Proof.Machine
end

