-- ==== Sys2Proof/Laws/Ops.lean ====
section
/-! SUPPORT. What each shared operation over the state can do, said once. -/

namespace Sys2Proof.Machine

/-- Error entry: nothing, or the error fields alone (R231). -/
theorem raiseCmdError_cases (e : CmdError) (s : State) :
    (s.err = true ∧ raiseCmdError e s = s) ∨ (s.err = false ∧ raiseCmdError e s = s.setError true e.code) := by
  cases h : s.err <;> simp [raiseCmdError, h]

/-- Error entry as one record update. -/
theorem raiseCmdError_eq (e : CmdError) (s : State) :
    raiseCmdError e s = { s with err := true, ecause := if s.err then s.ecause else e.code } := by
  cases s with
  | mk result encPos decPos decPend pchar err ecause work banks sched base pending returned resetLine =>
    cases err <;> simp [raiseCmdError, State.setError]

/-- A cause code is never 0 (R232). -/
theorem cmdErrorCode_ne_zero (e : CmdError) : e.code ≠ 0#2 := by cases e <;> decide

/-- Deasserting reset: the reset values, or nothing where it was not asserted (R260). -/
theorem releaseReset_cases (s : State) :
    (s.resetLine = true ∧ releaseReset s = s.afterReset) ∨ (s.resetLine = false ∧ releaseReset s = s) := by
  cases h : s.resetLine <;> simp [releaseReset, h]

/-- The filter of R131 as a range of numbers. -/
theorem inBase_iff (c : Byte) : inBase c = true ↔ 0x6C ≤ c.toNat ∧ c.toNat ≤ 0x7B := by
  simp [inBase, Config.baseLo, Config.baseHi, BitVec.le_def]

/-- The register at a register's own offset (R51). -/
@[simp] theorem regAt_offset (r : Reg) : regAt r.offset = some r := by
  cases r with
  | work w => revert w; decide
  | _ => decide

/-- Only a register's own offset names it (R51). -/
theorem offset_of_regAt {off : Int} {r : Reg} (h : regAt off = some r) : off = r.offset := by
  unfold regAt at h
  repeat' split at h
  all_goals first | (cases h; assumption) | cases h

/-- An access reaches a register only as a 32-bit access at its offset (R52). -/
theorem access_of_target {off : Int} {size : AccessSize} {r : Reg} (h : targetOf off size = .reg r) :
    off = r.offset ∧ size = .word := by
  unfold targetOf at h
  split at h
  · cases h
  · cases size with
    | byte => cases h
    | half => cases h
    | word =>
      simp only at h
      split at h
      · rename_i q hq; cases h; exact ⟨offset_of_regAt hq, rfl⟩
      · cases h

/-- A 32-bit access at a register's offset reaches it (R51, R52). -/
@[simp] theorem targetOf_offset (r : Reg) : targetOf r.offset .word = .reg r := by
  cases r with
  | work w => revert w; decide
  | _ => decide

/-- A 32-bit access at offset 0 reaches CMD. -/
@[simp] theorem targetOf_zero : targetOf 0 .word = .reg .cmd := by decide

/-- An access at 0x20 or above reaches nothing of SPTC (R53). -/
theorem targetOf_above (off : Int) (size : AccessSize) (h : 0x20 ≤ off) : targetOf off size = .outside := by
  have ho : outsideWindow off size = true := by
    simp only [outsideWindow, Bool.or_eq_true, decide_eq_true_eq]
    exact Or.inl h
  simp [targetOf, ho]

/-- What a bus write to a register can do: run a command, nothing, or write WORK. -/
theorem writeReg_cases (r : Reg) (v : Word) (s : State) :
    (r = .cmd ∧ writeReg r v s = runCommand v s) ∨ writeReg r v s = .next s ∨
      ∃ a : Lanes, writeReg r v s = .next (s.setWork a) := by
  cases r with
  | cmd => exact Or.inl ⟨rfl, rfl⟩
  | result => exact Or.inr (Or.inl rfl)
  | status => exact Or.inr (Or.inl rfl)
  | dpend => exact Or.inr (Or.inl rfl)
  | work w => exact Or.inr (Or.inr ⟨_, rfl⟩)

/-- A word written to CMD runs its command or raises its error. -/
theorem runCommand_cases (w : Word) (s : State) :
    (∃ i, decode w = .ok i ∧ runCommand w s = exec i s) ∨
      (∃ e, decode w = .error e ∧ runCommand w s = .next (raiseCmdError e s)) := by
  unfold runCommand
  cases h : decode w with
  | ok i => exact Or.inl ⟨i, rfl, rfl⟩
  | error e => exact Or.inr ⟨e, rfl, rfl⟩

end Sys2Proof.Machine
end

