-- ==== Sys2Proof/Laws/PerInstr.lean ====
section
/-! SUPPORT. Per-instruction laws about the commands as syntax. -/

namespace Sys2Proof.Laws.UnusedFieldsZero

/-- The command's opcode is one of the twelve, and each field of R81 that R83 says it does not use is 0 in it. -/
def Statement (i : Instr) : Prop :=
  i.opc ∈ definedOpcodes ∧ (i.opc ∉ bankOpcodes → i.kField = 0) ∧ (i.opc ∈ noOperandOpcodes → i.aField = 0)

/-- A command of opcode `o` whose unused fields are 0 by computation meets the law. -/
theorem ofOpcode (o : BitVec 8) {i : Instr} (hi : i.opc = o) (hd : o ∈ definedOpcodes)
    (hk : i.kField = 0 ∨ o ∈ bankOpcodes) (ha : i.aField = 0 ∨ o ∉ noOperandOpcodes) : Statement i := by
  subst hi
  exact ⟨hd, fun h => hk.resolve_right h, fun h => ha.resolve_right (not_not.2 h)⟩

theorem nop : Statement .nop := ofOpcode 0x00 rfl (by decide) (.inl rfl) (.inl rfl)
theorem enc (x : Byte) : Statement (.enc x) := ofOpcode 0x01 rfl (by decide) (.inl rfl) (.inr (by decide))
theorem encrst : Statement .encrst := ofOpcode 0x02 rfl (by decide) (.inl rfl) (.inl rfl)
theorem decc (c : Byte) : Statement (.decc c) := ofOpcode 0x03 rfl (by decide) (.inl rfl) (.inr (by decide))
theorem decrst : Statement .decrst := ofOpcode 0x04 rfl (by decide) (.inl rfl) (.inl rfl)
theorem errclr : Statement .errclr := ofOpcode 0x05 rfl (by decide) (.inl rfl) (.inl rfl)
theorem xform (n : Byte) : Statement (.xform n) := ofOpcode 0x10 rfl (by decide) (.inl rfl) (.inr (by decide))
theorem ldbase : Statement .ldbase := ofOpcode 0x11 rfl (by decide) (.inl rfl) (.inl rfl)
theorem ldbank (k : BankIx) : Statement (.ldbank k) := ofOpcode 0x12 rfl (by decide) (.inr (by decide)) (.inl rfl)
theorem lutrd (k : BankIx) (j : Byte) : Statement (.lutrd k j) := ofOpcode 0x20 rfl (by decide) (.inr (by decide)) (.inr (by decide))
theorem lutidx (k : BankIx) (c : Byte) : Statement (.lutidx k c) := ofOpcode 0x21 rfl (by decide) (.inr (by decide)) (.inr (by decide))
theorem schrd (j : Byte) : Statement (.schrd j) := ofOpcode 0x22 rfl (by decide) (.inl rfl) (.inr (by decide))

end Sys2Proof.Laws.UnusedFieldsZero
end

