-- ==== Sys2Proof/Laws/Step.lean ====
section
/-! SUPPORT. What a step can do, said once, and how runs of steps compose. -/

namespace Sys2Proof.Machine

/-- A step performs the oldest event. -/
theorem step_event {s : State} {e : HostEvent} {rest : List HostEvent} (h : s.pending = e :: rest) :
    step s = perform e (s.setPending rest) := by simp [step, h]

/-- A word written to CMD is run as a command. -/
theorem step_cmd {s : State} {w : Word} {rest : List HostEvent} (hr : s.resetLine = false)
    (h : s.pending = .write 0 .word w :: rest) : step s = runCommand w (s.setPending rest) := by
  rw [step_event h]; simp [perform, busWrite, hr, writeReg]

/-- A read of a register returns its value and changes nothing of the block. -/
theorem step_read {s : State} {r : Reg} {rest : List HostEvent} (hr : s.resetLine = false)
    (h : s.pending = .read r.offset .word :: rest) :
    step s = .next ((s.setPending rest).pushReturned (readReg r s)) := by
  rw [step_event h]
  cases r <;> simp [perform, busRead, hr] <;> rfl

/-- A write to a register's offset. -/
theorem step_write {s : State} {r : Reg} {v : Word} {rest : List HostEvent} (hr : s.resetLine = false)
    (h : s.pending = .write r.offset .word v :: rest) : step s = writeReg r v (s.setPending rest) := by
  rw [step_event h]; simp [perform, busWrite, hr]

/-- The inversion of a step that answers: nothing issued, an access that leaves the block alone, a read, a write to WORK, a
command, a malformed word, and the two edges of reset. -/
theorem step_cases {s t : State} (h : step s = .next t) :
    (s.pending = [] ∧ t = s) ∨
    ∃ (e : HostEvent) (rest : List HostEvent), s.pending = e :: rest ∧
      (t = s.setPending rest ∨
       (s.resetLine = false ∧ ∃ v, t = (s.setPending rest).pushReturned v) ∨
       (s.resetLine = false ∧ ∃ a, t = (s.setPending rest).setWork a) ∨
       (s.resetLine = false ∧ ∃ w i, e = .write 0 .word w ∧ decode w = .ok i ∧ exec i (s.setPending rest) = .next t) ∨
       (s.resetLine = false ∧ ∃ w x, e = .write 0 .word w ∧ decode w = .error x ∧
         t = raiseCmdError x (s.setPending rest)) ∨
       (e = .assertReset ∧ t = (s.setPending rest).setResetLine true) ∨
       (e = .releaseReset ∧ s.resetLine = true ∧ t = (s.setPending rest).afterReset)) := by
  cases hp : s.pending with
  | nil => simp only [step, hp, Host.Outcome.next.injEq] at h; exact Or.inl ⟨rfl, h.symm⟩
  | cons e rest =>
    refine Or.inr ⟨e, rest, rfl, ?_⟩
    rw [step_event hp] at h
    cases e with
    | read off size =>
      simp only [perform, busRead] at h
      split at h
      · exact Or.inl (Host.Outcome.next.inj h).symm
      · cases h
      · cases hr : s.resetLine <;> simp [hr] at h
        exact Or.inr (Or.inl ⟨rfl, _, h.symm⟩)
    | write off size v =>
      simp only [perform, busWrite] at h
      split at h
      · exact Or.inl (Host.Outcome.next.inj h).symm
      · cases h
      · rename_i r htgt
        cases hr : s.resetLine <;> simp [hr] at h
        rcases writeReg_cases r v (s.setPending rest) with ⟨rfl, hw⟩ | hw | ⟨a, hw⟩
        · obtain ⟨ho, rfl⟩ := access_of_target htgt
          have ho : off = 0 := ho
          subst ho
          rw [hw] at h
          rcases runCommand_cases v (s.setPending rest) with ⟨i, hd, hc⟩ | ⟨x, hd, hc⟩
          · exact Or.inr (Or.inr (Or.inr (Or.inl ⟨rfl, v, i, rfl, hd, hc ▸ h⟩)))
          · rw [hc] at h
            exact Or.inr (Or.inr (Or.inr (Or.inr (Or.inl ⟨rfl, v, x, rfl, hd, (Host.Outcome.next.inj h).symm⟩))))
        · rw [hw] at h; exact Or.inl (Host.Outcome.next.inj h).symm
        · rw [hw] at h; exact Or.inr (Or.inr (Or.inl ⟨rfl, a, (Host.Outcome.next.inj h).symm⟩))
    | assertReset =>
      exact Or.inr (Or.inr (Or.inr (Or.inr (Or.inr (Or.inl ⟨rfl, (Host.Outcome.next.inj h).symm⟩)))))
    | releaseReset =>
      simp only [perform, Host.Outcome.next.injEq] at h
      rcases releaseReset_cases (s.setPending rest) with ⟨hr, he⟩ | ⟨hr, he⟩
      · exact Or.inr (Or.inr (Or.inr (Or.inr (Or.inr (Or.inr ⟨rfl, hr, by rw [← h, he]⟩)))))
      · exact Or.inl (by rw [← h, he])

/-- A run is its first step and the rest. -/
theorem runSteps_succ {k : Nat} {s t : State} (h : step s = .next t) : runSteps (k + 1) s = runSteps k t := by
  simp [runSteps, h]

/-- Runs compose. -/
theorem runSteps_add {j k : Nat} {s t : State} (h : runSteps j s = .next t) :
    runSteps (j + k) s = runSteps k t := by
  induction j generalizing s with
  | zero => cases h; simp
  | succ j ih =>
    rw [Nat.succ_add]
    simp only [runSteps] at h ⊢
    split at h
    · exact ih h
    · cases h
    · cases h

/-- An invariant kept by every step is kept by every run. -/
theorem runSteps_keeps {P : State → Prop} (hstep : ∀ s t, P s → step s = .next t → P t) (k : Nat) :
    ∀ {s t : State}, P s → runSteps k s = .next t → P t := by
  induction k with
  | zero => intro s t hs h; cases h; exact hs
  | succ k ih =>
    intro s t hs h
    simp only [runSteps] at h
    split at h
    · rename_i u hu; exact ih (hstep _ _ hs hu) h
    · cases h
    · cases h

end Sys2Proof.Machine
end

