-- ==== Sys2Proof/Laws/Values.lean ====
section
/-! SUPPORT. The operand forms, layouts and tables as numbers, one lemma per function. -/

namespace Sys2Proof.Machine

/-- Concatenation as a number. -/
theorem toNat_append {n m : Nat} (a : BitVec n) (b : BitVec m) : (a ++ b).toNat = a.toNat * 2 ^ m + b.toNat := by
  rw [BitVec.toNat_append, ← Nat.shiftLeft_add_eq_or_of_lt b.isLt, Nat.shiftLeft_eq]

/-- A flag as a number. -/
theorem toNat_ofBool (b : Bool) : (BitVec.ofBool b).toNat = b.toNat := by cases b <;> rfl

/-- A position's field holds the position (R24). -/
theorem posBits_toNat (p : Position) : (posBits p).toNat = p.val := by
  have := p.isLt
  simp [posBits]; omega

/-- Reading a vector that a function gives. -/
theorem get_ofFn {n : Nat} {α : Type} (f : Fin n → α) (j : Fin n) : (Vector.ofFn f).get j = f j := by
  simp [Vector.get]; rfl

/-- `zext_32` keeps the number. -/
theorem zext32_toNat (b : Byte) : (zext32 b).toNat = b.toNat := by
  have := b.isLt
  simp [zext32]; omega

/-- ENC's layout as a number (R163). -/
theorem encResult_toNat (first second : Byte) : (encResult first second).toNat = first.toNat + 2 ^ 8 * second.toNat := by
  simp only [encResult, toNat_append]
  simp; omega

/-- ENC's first character is the low byte of its result (R57). -/
@[simp] theorem busByte_zero_encResult (a b : Byte) : busByte (encResult a b) 0 = a := by
  apply BitVec.eq_of_toNat_eq
  have := a.isLt
  simp [busByte, encResult_toNat]; omega

/-- ENC's second character is the byte above it (R57). -/
@[simp] theorem busByte_one_encResult (a b : Byte) : busByte (encResult a b) 1 = b := by
  apply BitVec.eq_of_toNat_eq
  have := a.isLt
  have := b.isLt
  simp [busByte, encResult_toNat, Nat.shiftRight_eq_div_pow]; omega

/-- DECC's layout as a number (R184). -/
theorem deccResult_toNat (pend acc ov : Bool) (x : Byte) :
    (deccResult pend acc ov x).toNat = 2 ^ 10 * pend.toNat + 2 ^ 9 * acc.toNat + 2 ^ 8 * ov.toNat + x.toNat := by
  simp only [deccResult, toNat_append, toNat_ofBool]
  simp; omega

/-- A byte from its nibbles as a number (R58). -/
theorem joinNibbles_toNat (high low : Nibble) : (joinNibbles high low).toNat = 16 * high.toNat + low.toNat := by
  simp only [joinNibbles, toNat_append]; omega

/-- The low nibble as a number (R163). -/
theorem lowNibble_toNat (x : Byte) : (lowNibble x).toNat = x.toNat % 16 := by simp [lowNibble]

/-- The high nibble as a number (R163). -/
theorem highNibble_toNat (x : Byte) : (highNibble x).toNat = x.toNat / 16 % 16 := by
  simp [highNibble, Nat.shiftRight_eq_div_pow]

/-- The places of a character are where the alphabet holds it (R136). -/
theorem mem_placesOf (a : Lanes) (c : Byte) (j : Fin 16) : j ∈ placesOf a c ↔ a.get j = c := by simp [placesOf]

/-- Where a character stands exactly once, `idx` is its place (R136). -/
theorem idx_of_placesOf {a : Lanes} {c : Byte} {j : Fin 16} (h : placesOf a c = [j]) : idx a c = BitVec.ofFin j := by
  simp [idx, h]

/-- Lane `4w + i` of WORK after a write of WORKw is byte `i` of the word (R56). -/
theorem writeWorkWord_same (a : Lanes) (w i : Fin 4) (v : Word) :
    (writeWorkWord a w v).get (laneOf w i) = busByte v i.val := by
  have h1 : (4 * w.val + i.val) / 4 = w.val := by omega
  have h2 : (4 * w.val + i.val) % 4 = i.val := by omega
  rw [writeWorkWord, get_ofFn]
  simp [laneOf, h1, h2]

/-- The lanes of the other words are untouched (R56). -/
theorem writeWorkWord_other (a : Lanes) {w w' : Fin 4} (i : Fin 4) (v : Word) (h : w ≠ w') :
    (writeWorkWord a w v).get (laneOf w' i) = a.get (laneOf w' i) := by
  have h1 : ¬(4 * w'.val + i.val) / 4 = w.val := by
    intro hh
    exact h (Fin.ext (by omega))
  rw [writeWorkWord, get_ofFn]
  simp [laneOf, h1]

/-- Every command answers a next state, in every state (R62, R88). -/
theorem exec_answers (i : Instr) (s : State) : ∃ t, exec i s = .next t := by
  cases i with
  | decc c =>
    simp only [exec, execDecc]
    split <;> [split; skip] <;> exact ⟨_, rfl⟩
  | lutrd k j => simp only [exec, execLutrd]; split <;> exact ⟨_, rfl⟩
  | lutidx k c => simp only [exec, execLutidx]; split <;> exact ⟨_, rfl⟩
  | schrd j => simp only [exec, execSchrd]; split <;> exact ⟨_, rfl⟩
  | _ => exact ⟨_, rfl⟩

end Sys2Proof.Machine
end

