-- ==== Sys2Proof/Tests/Slice0.lean ====
section
/-! SUPPORT. The model's own tests: well-formedness, decoding, one step per test with the results the spec prints, and a
witness for the hypotheses of each statement. -/

namespace Sys2Proof.Tests

open Sys2Proof.Machine

/-- The machine after reset with these events issued. -/
def issue (events : List HostEvent) : State := State.reset.setPending events

/-- The state after one event, or none where the step stops. -/
def after (e : HostEvent) (s : State) : Option State :=
  match step (s.setPending [e]) with
  | .next t => some t
  | .fault _ => none
  | .refused _ => none

/-- What a state shows of its registers: RESULT, STATUS, DPEND. -/
def shown (s : State) : Word × Word × Word := (s.result, s.statusWord, s.dpendWord)

/-- The registers after one command word. -/
def shownAfter (w : Word) (s : State) : Option (Word × Word × Word) := (after (cmdWrite w) s).map shown

/-- WORK0..3 of a state. -/
def workOf (s : State) : List Word := (List.finRange 4).map (workWord s.work)

/-- WORK0..3 after one command word. -/
def workAfter (w : Word) (s : State) : Option (List Word) := (after (cmdWrite w) s).map workOf

/-! ## Well-formedness: an ill-formed term for each check -/

theorem test_wellFormed_refuses_lutrd_16 : (Instr.lutrd 0 16).wellFormed = false := by decide
theorem test_wellFormed_takes_lutrd_15 : (Instr.lutrd 7 15).wellFormed = true := by decide
theorem test_wellFormed_refuses_schrd_24 : (Instr.schrd 24).wellFormed = false := by decide
theorem test_wellFormed_takes_schrd_23 : (Instr.schrd 23).wellFormed = true := by decide

/-! ## Decoding: a word of each row, written out from R83 (OPC, RSV, K, A) -/

theorem test_decode_nop : decode 0b00000000_0000000000000_000_00000000 = .ok .nop := by rfl
theorem test_decode_enc : decode 0b00000001_0000000000000_000_01000001 = .ok (.enc 0x41) := by rfl
theorem test_decode_encrst : decode 0b00000010_0000000000000_000_00000000 = .ok .encrst := by rfl
theorem test_decode_decc : decode 0b00000011_0000000000000_000_01110101 = .ok (.decc 0x75) := by rfl
theorem test_decode_decrst : decode 0b00000100_0000000000000_000_00000000 = .ok .decrst := by rfl
theorem test_decode_errclr : decode 0b00000101_0000000000000_000_00000000 = .ok .errclr := by rfl
theorem test_decode_xform : decode 0b00010000_0000000000000_000_11111111 = .ok (.xform 255) := by rfl
theorem test_decode_ldbase : decode 0b00010001_0000000000000_000_00000000 = .ok .ldbase := by rfl
theorem test_decode_ldbank : decode 0b00010010_0000000000000_110_00000000 = .ok (.ldbank 6) := by rfl
theorem test_decode_lutrd : decode 0b00100000_0000000000000_011_00001000 = .ok (.lutrd 3 8) := by rfl
theorem test_decode_lutidx : decode 0b00100001_0000000000000_101_01111011 = .ok (.lutidx 5 0x7B) := by rfl
theorem test_decode_schrd : decode 0b00100010_0000000000000_000_00010111 = .ok (.schrd 23) := by rfl

/-- R234: RESERVED_FIELD wins over OPERAND_RANGE, ILLEGAL_OPCODE over the rest. -/
theorem test_decode_priority :
    decode 0x22000118 = .error .reservedField ∧ decode 0x23FFFFFF = .error .illegalOpcode := ⟨rfl, rfl⟩

/-- V25 to V28. -/
theorem test_decode_permuter_errors :
    [0x10000108, 0x10000808, 0x11000001, 0x12000701].map (fun w => (decode w).toOption) = [none, none, none, none] := by
  decide

theorem test_decodeTableWord : decodeTableWord 32 0x2000070F = some (.lutrd 7 15) := by decide
theorem test_decodeTableWord_too_wide : decodeTableWord 40 0 = none := by decide

/-- The next step runs the placed word: ENC 0x41 (W3). -/
theorem test_withFetchWord :
    (match step (State.reset.withFetchWord 32 0x01000041) with
      | .next t => some (shown t)
      | .fault _ => none
      | .refused _ => none) = some (0x00007875, 0x00000001, 0) := by decide

/-! ## Encoder (W3, and the `ENC 0x41` and `ENC 0xA5` columns of 95_test_vectors.md 2.3) -/

theorem test_enc_at_0 : shownAfter 0x01000041 State.reset = some (0x00007875, 0x00000001, 0) := by decide
theorem test_enc_at_23_wraps :
    shownAfter 0x010000A5 (State.reset.setEncPos 23) = some (0x0000796E, 0x00000000, 0) := by decide
theorem test_encrst : shownAfter 0x02000000 ((State.reset.setEncPos 5).setResult 7) = some (7, 0, 0) := by decide
theorem test_encrst_error : shownAfter 0x02000001 State.reset = some (0, 0x05000000, 0) := by decide

/-! ## Decoder (V60, V63, V67, V69, V75) -/

theorem test_decc_first : shownAfter 0x03000075 State.reset = some (0x600, 0x00010000, 0x75) := by decide
theorem test_decc_second :
    shownAfter 0x03000078 (State.reset.holdChar 0x75) = some (0x341, 0x00000100, 0) := by decide
theorem test_decc_at_23_wraps :
    shownAfter 0x0300006F ((State.reset.holdChar 0x72).setDecPos 23) = some (0x341, 0, 0) := by decide
theorem test_decc_noise :
    shownAfter 0x0300002D (State.reset.holdChar 0x75) = some (0x400, 0x00010000, 0x75) := by decide
theorem test_decrst_drops : shownAfter 0x04000000 (State.reset.holdChar 0x75) = some (1, 0, 0) := by decide
theorem test_decrst_empty : shownAfter 0x04000000 (State.reset.setDecPos 1) = some (0, 0, 0) := by decide

/-! ## Control and errors (V80, V81, V85, V86, V87, V89) -/

theorem test_nop : after (cmdWrite 0) State.reset = some State.reset := by decide
theorem test_nop_error : shownAfter 0x00000001 State.reset = some (0, 0x05000000, 0) := by decide
theorem test_errclr : shownAfter 0x05000000 (State.reset.setError true 1) = some (0, 0, 0) := by decide
theorem test_errclr_error : shownAfter 0x05000001 (State.reset.setError true 1) = some (0, 0x03000000, 0) := by decide
theorem test_second_error_keeps_first_cause :
    shownAfter 0x22000018 (State.reset.setError true 1) = some (0, 0x03000000, 0) := by decide
theorem test_command_runs_with_err :
    shownAfter 0x01000041 (State.reset.setError true 1) = some (0x7875, 0x03000001, 0) := by decide

/-! ## Permuter (V7, V15, V24 and R107) -/

/-- WORK as V15 and V16 start it. -/
def countedWork : State := State.reset.setWork (Vector.ofFn fun j => BitVec.ofNat 8 j.val)

theorem test_xform_3 :
    workAfter 0x10000003 countedWork = some [0x00050403, 0x0A090201, 0x0807060B, 0x0E0D0C0F] := by decide
theorem test_xform_5 :
    workAfter 0x10000005 countedWork = some [0x08070605, 0x02010009, 0x0A0F0403, 0x0E0D0C0B] := by decide
theorem test_ldbase :
    workAfter 0x11000000 countedWork = some [0x6F6E6D6C, 0x73727170, 0x77767574, 0x7B7A7978] := by decide
theorem test_ldbank_7 :
    workAfter 0x12000700 countedWork = some [0x70717273, 0x6C6D6E6F, 0x78797A7B, 0x74757677] := by decide

/-! ## Table reads (V32, V34, V37, V39, V44, V45) -/

theorem test_lutrd : shownAfter 0x2000070F State.reset = some (0x74, 0, 0) := by decide
theorem test_lutrd_16 : shownAfter 0x20000010 State.reset = some (0, 0x07000000, 0) := by decide
theorem test_lutidx : shownAfter 0x2100057B State.reset = some (0x10D, 0, 0) := by decide
theorem test_lutidx_noise : shownAfter 0x2100007C (State.reset.setResult 7) = some (0, 0, 0) := by decide
theorem test_schrd : shownAfter 0x22000017 State.reset = some (7, 0, 0) := by decide
theorem test_schrd_24 : shownAfter 0x22000018 State.reset = some (0, 0x07000000, 0) := by decide

/-! ## Bus (V90, V92, V93, V95, V96, R53, R260) -/

theorem test_read_work1 : (after (.read 0x14 .word) State.reset).map (·.returned) = some [0x73727170] := by decide
theorem test_read_cmd : (after (.read 0x00 .word) State.reset).map (·.returned) = some [0] := by decide
theorem test_write_status_ignored : after (.write 0x08 .word 0xFFFFFFFF) State.reset = some State.reset := by decide
theorem test_write_work2 :
    (after (.write 0x18 .word 0xDEADBEEF) State.reset).map (fun s => [s.work.get 8, s.work.get 9, s.work.get 10,
      s.work.get 11, s.work.get 12]) = some [0xEF, 0xBE, 0xAD, 0xDE, 0x78] := by decide
theorem test_byte_write_refused : after (.write 0x10 .byte 0) State.reset = none := by decide
theorem test_misaligned_read_refused : after (.read 0x06 .word) State.reset = none := by decide
theorem test_straddling_access_refused : after (.read (-2) .word) State.reset = none := by decide
theorem test_access_above_window : after (.write 0x20 .byte 0xFF) State.reset = some State.reset := by decide
theorem test_release_resets :
    (after .releaseReset ((countedWork.holdChar 0x75).setResetLine true)) = some State.reset := by decide

/-! ## Witnesses: a concrete case that meets the hypotheses of each statement, one for each of its clauses -/

theorem witness_EncodedWordsDecodeBack :
    (Instr.lutrd 7 15).wellFormed = true ∧ (Instr.schrd 23).wellFormed = true ∧ (Instr.xform 255).wellFormed = true := by
  decide

theorem witness_DecodedWordsEncodeBack : decode 0x2000070F = .ok (.lutrd 7 15) := by rfl

/-- The two sides of every row of the table can hold: the last word of each row. -/
theorem witness_OpcodeTableRowsDecode :
    0x010000FF#32 &&& 0xFFFFFF00#32 = 0x01000000#32 ∧ 0x12000700#32 &&& 0xFFFFF8FF#32 = 0x12000000#32 ∧
    (0x2000070F#32 &&& 0xFFFFF800#32 = 0x20000000#32 ∧ (0x2000070F#32).toNat % 256 < 16) ∧
    0x210007FF#32 &&& 0xFFFFF800#32 = 0x21000000#32 ∧
    (0x22000017#32 &&& 0xFFFFFF00#32 = 0x22000000#32 ∧ (0x22000017#32).toNat % 256 < 24) := by decide

/-- A command write issued out of reset. -/
theorem witness_command_write :
    (issue [.write 0 .word 0x22000017]).resetLine = false ∧
    (issue [.write 0 .word 0x22000017]).pending = .write 0 .word 0x22000017 :: [] := ⟨rfl, rfl⟩

/-- A word for each branch of CommandChecksRunInOrder, at the boundary of its range. -/
theorem witness_CommandChecksRunInOrder :
    decode 0x06000000 = .error .illegalOpcode ∧ decode 0x01000800 = .error .reservedField ∧
    decode 0x01000100 = .error .reservedField ∧ decode 0x12000001 = .error .reservedField ∧
    decode 0x20000010 = .error .operandRange ∧ decode 0x22000018 = .error .operandRange ∧
    decode 0x22000017 = .ok (.schrd 23) ∧ decode 0x05000000 = .ok .errclr := ⟨rfl, rfl, rfl, rfl, rfl, rfl, rfl, rfl⟩

theorem witness_UndefinedOpcodesAreIllegal :
    (0x06000000#32).toNat / 2 ^ 24 = 6 ∧ (0x0FFFFFFF#32).toNat / 2 ^ 24 = 0x0F ∧ (0x13000000#32).toNat / 2 ^ 24 = 0x13 ∧
    (0x1F000000#32).toNat / 2 ^ 24 = 0x1F ∧ (0x23000000#32).toNat / 2 ^ 24 = 0x23 := by decide

theorem witness_CommandErrorKeepsFirstCause :
    (issue [.write 0 .word 1]).err = false ∧ ((issue [.write 0 .word 1]).setError true 3).err = true ∧
    ((issue [.write 0 .word 1]).setError true 3).pending = .write 0 .word 1 :: [] ∧
    decode 1 = .error .reservedField := ⟨rfl, rfl, rfl, rfl⟩

theorem witness_StepRunsDecodedCommand :
    (issue [.write 0 .word 0x22000017]).pending = .write 0 .word 0x22000017 :: [] ∧
    decode 0x22000017 = .ok (.schrd 23) := ⟨rfl, rfl⟩

theorem witness_NothingIssuedChangesNothing : State.reset.pending = [] := rfl

theorem witness_ReadsReturnRegisterValues :
    (issue [rdStatement (.work 3)]).pending = .read (Reg.work 3).offset .word :: [] ∧
    (issue [rdStatement .cmd, rdStatement .cmd]).pending =
      .read Reg.cmd.offset .word :: .read Reg.cmd.offset .word :: [] ∧
    (issue [rdStatement .cmd, rdStatement .cmd]).resetLine = false := ⟨rfl, rfl, rfl⟩

theorem witness_WritesActByRegister :
    (issue [wrStatement .cmd 0]).pending = .write Reg.cmd.offset .word 0 :: [] ∧
    (issue [wrStatement .result 0]).pending = .write Reg.result.offset .word 0 :: [] ∧
    (issue [wrStatement .status 0]).pending = .write Reg.status.offset .word 0 :: [] ∧
    (issue [wrStatement .dpend 0]).pending = .write Reg.dpend.offset .word 0 :: [] ∧
    (issue [wrStatement (.work 3) 0]).pending = .write (Reg.work 3).offset .word 0 :: [] := ⟨rfl, rfl, rfl, rfl, rfl⟩

theorem witness_WorkReadsSeeTheLastWrite :
    (issue [wrStatement (.work 3) 9, rdStatement (.work 0)]).pending =
      .write (Reg.work 3).offset .word 9 :: .read (Reg.work 0).offset .word :: [] ∧
    (issue [wrStatement (.work 3) 9, rdStatement (.work 0)]).resetLine = false := ⟨rfl, rfl⟩

theorem witness_AccessesAboveWindowLeaveState :
    (0x20 : Int) ≤ 0x20 ∧ (issue [.read 0x20 .byte]).pending = .read 0x20 .byte :: [] ∧
    (issue [.write 0x20 .word 1]).pending = .write 0x20 .word 1 :: [] := ⟨by decide, rfl, rfl⟩

theorem witness_OnlyAlignedWordAccessesAreDefined :
    (issue [.read 0x1C .word]).pending = .read 0x1C .word :: [] ∧ (0 : Int) ≤ 0x1C ∧ (0x1C : Int) < 0x20 ∧
    (0x1C : Int) % 4 = 0 ∧ (issue [.write 0x1F .word 0]).pending = .write 0x1F .word 0 :: [] ∧ (0x1F : Int) % 4 ≠ 0 ∧
    (issue [.read 0 .half]).pending = .read 0 .half :: [] ∧ (issue [.read 0 .half]).resetLine = false := by
  exact ⟨rfl, by decide, by decide, by decide, rfl, by decide, rfl, rfl⟩

theorem witness_ResetGivesEveryElementItsValue :
    ((issue [.releaseReset]).setResetLine true).resetLine = true ∧
    ((issue [.releaseReset]).setResetLine true).pending = .releaseReset :: [] := ⟨rfl, rfl⟩

theorem witness_NoAccessAcceptedInReset :
    ((issue [.read 0x1C .word]).setResetLine true).resetLine = true ∧
    ((issue [.read 0x1C .word]).setResetLine true).pending = .read (Reg.work 3).offset .word :: [] ∧
    ((issue [.write 0 .word 0]).setResetLine true).pending = .write Reg.cmd.offset .word 0 :: [] := ⟨rfl, rfl, rfl⟩

theorem witness_ResetLineFollowsHost :
    (issue [.assertReset]).pending = .assertReset :: [] ∧ (issue [.releaseReset]).pending = .releaseReset :: [] ∧
    (issue [.releaseReset]).resetLine = false := ⟨rfl, rfl, rfl⟩

/-- A state with a held character, an error and positions at their ends meets the invariant, and a step from it answers. -/
theorem witness_StepKeepsInvariant :
    ((((issue [cmdWrite 0x0300006F]).holdChar 0x72).setDecPos 23).setError true 3).TablesIntact ∧
    ((((issue [cmdWrite 0x0300006F]).holdChar 0x72).setDecPos 23).setError true 3).HeldLegal ∧
    ((((issue [cmdWrite 0x0300006F]).holdChar 0x72).setDecPos 23).setError true 3).ErrorLegal ∧
    ((((issue [cmdWrite 0x0300006F]).holdChar 0x72).setDecPos 23).setError true 3).ResultLegal ∧
    (after (cmdWrite 0x0300006F) (((State.reset.holdChar 0x72).setDecPos 23).setError true 3)).isSome = true := by
  decide

theorem witness_tables_intact : State.reset.TablesIntact := by decide

theorem witness_ReachableStatesAreLegal :
    ∃ t, runSteps 1 (issue [cmdWrite 0x03000075]) = .next t ∧ t.decPend = true := ⟨_, rfl, by decide⟩

theorem witness_TablesNeverWritten :
    (∃ t, step (issue [cmdWrite 0x12000700]) = .next t) ∧
    (∃ t, step ((issue [.releaseReset]).setResetLine true) = .next t) := ⟨⟨_, rfl⟩, ⟨_, rfl⟩⟩

/-- A step that keeps the error, an ERRCLR and a reset. -/
theorem witness_ErrorStaysUntilCleared :
    ((issue [cmdWrite 0]).setError true 2).err = true ∧ (∃ t, step ((issue [cmdWrite 0]).setError true 2) = .next t) ∧
    (∃ t, step ((issue [cmdWrite 0x05000000]).setError true 2) = .next t) ∧
    (∃ t, step (((issue [.releaseReset]).setError true 2).setResetLine true) = .next t) :=
  ⟨rfl, ⟨_, rfl⟩, ⟨_, rfl⟩, ⟨_, rfl⟩⟩

/-- A command of each kind that CommandsWriteOnlyTheirFields names. -/
theorem witness_CommandsWriteOnlyTheirFields :
    (Instr.schrd 23).wellFormed = true ∧ (∃ t, exec (.schrd 23) State.reset = .next t) ∧
    writesResult .nop = false ∧ encoderCommand .nop = false ∧ decoderCommand .nop = false ∧
    permuterCommand .nop = false := ⟨by decide, ⟨_, rfl⟩, rfl, rfl, rfl, rfl⟩

theorem witness_LegalAccessesComplete :
    (HostEvent.read 0x1C .word).legal false = true ∧ (HostEvent.write 0x20 .byte 0).legal true = true ∧
    (HostEvent.write 0 .word 0xFFFFFFFF).legal false = true ∧ HostEvent.assertReset.legal true = true ∧
    (issue [.read 0x1C .word]).pending = .read 0x1C .word :: [] := by
  exact ⟨by decide, by decide, by decide, rfl, rfl⟩

/-- Two different states that read the same. -/
theorem witness_WindowShowsAllState :
    (∀ r : Reg, readReg r State.reset = readReg r (issue [.assertReset])) ∧ State.reset ≠ issue [.assertReset] :=
  ⟨fun r => by cases r <;> rfl, by decide⟩

/-- A word with a must-be-zero bit set for each opcode. -/
theorem witness_MustBeZero :
    [(0x00, 0x00000001, 0x00FFFFFF), (0x01, 0x01000100, 0x00FFFF00), (0x02, 0x02000001, 0x00FFFFFF),
      (0x03, 0x03800000, 0x00FFFF00), (0x04, 0x04000100, 0x00FFFFFF), (0x05, 0x05000001, 0x00FFFFFF),
      (0x10, 0x10000800, 0x00FFFF00), (0x11, 0x11000001, 0x00FFFFFF), (0x12, 0x12000701, 0x00FFF8FF),
      (0x20, 0x20000800, 0x00FFF800), (0x21, 0x21000800, 0x00FFF800), (0x22, 0x22000118, 0x00FFFF00)].all
      (fun (x : Nat × Word × Word) => decide (x.2.1.toNat / 2 ^ 24 = x.1 ∧ x.2.1 &&& x.2.2 ≠ 0)) = true := by decide

/-- The last position of a stream, with the tables intact. -/
theorem witness_EncWritesTwoCharacters : (State.reset.setEncPos 23).TablesIntact := by decide

theorem witness_EncClosedForm : (State.reset.setEncPos 23).TablesIntact := by decide

/-- Noise, a first and a second character, each at the ends of its range. -/
theorem witness_DeccFiltersAndPairs :
    ¬(0x6C ≤ (0x6B : Byte).toNat ∧ (0x6B : Byte).toNat ≤ 0x7B) ∧ ¬(0x6C ≤ (0x7C : Byte).toNat ∧ (0x7C : Byte).toNat ≤ 0x7B) ∧
    0x6C ≤ (0x6C : Byte).toNat ∧ (0x7B : Byte).toNat ≤ 0x7B ∧ State.reset.decPend = false ∧
    (State.reset.holdChar 0x7B).decPend = true ∧ (State.reset.holdChar 0x7B).TablesIntact ∧
    (State.reset.holdChar 0x7B).HeldLegal := by decide

theorem witness_DeccClosedForm :
    (State.reset.holdChar 0x6C).decPend = true ∧ (State.reset.holdChar 0x6C).TablesIntact ∧
    (State.reset.holdChar 0x6C).HeldLegal ∧ 0x6C ≤ (0x7B : Byte).toNat ∧ (0x7B : Byte).toNat ≤ 0x7B := by decide

/-- A second character in a state no run reaches: the held code is outside the base set. -/
theorem witness_DeccSecondAlwaysCompletes :
    (State.reset.holdChar 0).decPend = true ∧ ¬(State.reset.holdChar 0).HeldLegal ∧
    0x6C ≤ (0x6C : Byte).toNat ∧ (0x6C : Byte).toNat ≤ 0x7B := by decide

theorem witness_BlockSwapSpecialCases :
    ([1, 2, 3, 4] : List Byte).length ≤ 4 ∧
    (([1, 2, 3, 4] : List Byte).length ≤ 2 * 3 ∧ 3 < ([1, 2, 3, 4] : List Byte).length) ∧
    (0 < 2 ∧ ([1, 2, 3, 4] : List Byte).length % (2 * 2) = 0 ∧ 2 = 2 ^ 1) := by decide

theorem witness_LdbaseLoadsBaseAlphabet : State.reset.TablesIntact := by decide

theorem witness_LutrdReadsEntry :
    State.reset.TablesIntact ∧ (15 : Byte).toNat < 16 ∧ 0x20000010#32 &&& 0xFFFFF800#32 = 0x20000000#32 ∧ 16 ≤ (0x20000010#32).toNat % 256 := by decide

theorem witness_LutidxFindsCharacter :
    State.reset.TablesIntact ∧ 0x6C ≤ (0x6C : Byte).toNat ∧ (0x7B : Byte).toNat ≤ 0x7B ∧
    ¬(0x6C ≤ (0x7C : Byte).toNat ∧ (0x7C : Byte).toNat ≤ 0x7B) := by decide

theorem witness_SchrdReadsEntry :
    State.reset.TablesIntact ∧ (23 : Byte).toNat < 24 ∧ 0x22000018#32 &&& 0xFFFFFF00#32 = 0x22000000#32 ∧ 24 ≤ (0x22000018#32).toNat % 256 := by decide

theorem witness_OutOfRangeIndexRaisesError : 16 ≤ (16 : Byte).toNat ∧ 24 ≤ (24 : Byte).toNat := by decide

theorem witness_IdxIsUniquePlace : 0x6C ≤ (0x6C : Byte).toNat ∧ (0x6C : Byte).toNat ≤ 0x7B := by decide

theorem witness_BaseAndChainRebuildBank :
    (issue (cmdStatement .ldbase :: xformsProgram [4, 2, 1])).pending = cmdStatement .ldbase :: xformsProgram [4, 2, 1] ++ [] ∧
    (issue (cmdStatement .ldbase :: xformsProgram [4, 2, 1])).resetLine = false ∧
    (issue (cmdStatement .ldbase :: xformsProgram [4, 2, 1])).TablesIntact := ⟨rfl, rfl, by decide⟩

theorem witness_EncodeStreamIsSourceEncode :
    (issue (encodeProgram [0x48, 0x69, 0x00])).pending = encodeProgram [0x48, 0x69, 0x00] ++ [] ∧
    (issue (encodeProgram [0x48, 0x69, 0x00])).TablesIntact ∧
    (issue (encodeProgram [0x48, 0x69, 0x00])).resetLine = false := ⟨rfl, by decide, rfl⟩

theorem witness_DecodeStreamIsSourceDecode :
    (issue (decodeProgram [0x6C, 0x20, 0x78])).pending = decodeProgram [0x6C, 0x20, 0x78] ++ [] ∧
    (issue (decodeProgram [0x6C, 0x20, 0x78])).TablesIntact ∧
    (issue (decodeProgram [0x6C, 0x20, 0x78])).resetLine = false := ⟨rfl, by decide, rfl⟩

/-- The premises of both halves: an ENCODE stream, and a DECODE stream of what its one read returned. -/
theorem witness_StreamsRoundTrip :
    (issue (encodeProgram [0x41])).pending = encodeProgram [0x41] ++ [] ∧
    (issue (encodeProgram [0x41])).TablesIntact ∧ (issue (encodeProgram [0x41])).resetLine = false ∧
    encodeOutput [0x7875] = [0x75, 0x78] ∧
    (issue (decodeProgram (encodeOutput [0x7875]))).pending = decodeProgram (encodeOutput [0x7875]) ++ [] ∧
    (issue (decodeProgram (encodeOutput [0x7875]))).TablesIntact := ⟨rfl, by decide, rfl, by decide, rfl, by decide⟩

theorem witness_DecodeIgnoresInterleavedNoise :
    ∃ text, Interleaving (sourceEncode [0x41]) [0x2D] text ∧ ¬(0x6C ≤ (0x2D : Byte).toNat ∧ (0x2D : Byte).toNat ≤ 0x7B) :=
  ⟨_, .left (.right (.left .nil)), by decide⟩

theorem witness_OddTextDropsLastCharacter : (sourceFilter [0x6C, 0x20, 0x6C, 0x7B]).length % 2 = 1 := by decide

theorem witness_EncoderInterleavesWithOthers :
    encoderCommand (.enc 0x41) = true ∧ encoderCommand (.decc 0x75) = false ∧ writesResult (.enc 0x41) = true ∧
    writesResult (.decc 0x75) = true ∧ (Instr.decc 0x75).wellFormed = true := ⟨rfl, rfl, rfl, rfl, rfl⟩

/-! ## The source's functions (W3, L3-1, V68 in part) -/

theorem test_sourceEncode : sourceEncode [0x48, 0x69, 0x00] = [0x6C, 0x78, 0x78, 0x6F, 0x75, 0x75] := by decide
theorem test_sourceDecode :
    sourceDecode [0x6C, 0x20, 0x78, 0x78, 0x6F, 0x75, 0x21, 0x75, 0x74] = [0x48, 0x69, 0x00] := by decide

end Sys2Proof.Tests
end

/-! ## The tables as numbers, and the state after reset (R37) -/

namespace Sys2Proof.Machine

/-- The Key Scheduler gives the banks that R133 prints (R132). -/
theorem keySchedule_baseAlphabet : keySchedule baseAlphabet = bankTable := by decide

/-- The Base Alphabet is sixteen consecutive codes (R130). -/
theorem baseAlphabet_get_toNat (j : Fin 16) : (baseAlphabet.get j).toNat = 0x6C + j.val := by
  revert j; decide

/-- WORK0..3 of the Base Alphabet, as R37 prints them. -/
theorem workWord_baseAlphabet :
    workWord baseAlphabet 0 = 0x6F6E6D6C ∧ workWord baseAlphabet 1 = 0x73727170 ∧
    workWord baseAlphabet 2 = 0x77767574 ∧ workWord baseAlphabet 3 = 0x7B7A7978 := by decide

/-- Every entry of every bank is a base-set code (R135). -/
theorem inBase_bankTable (k : Fin 8) (j : Fin 16) : inBase ((bankTable.get k).get j) = true := by
  revert k j; decide

/-- With the tables intact, what a bank's entry holds is a base-set code (R135, R140). -/
theorem inBase_entryAt_bank {s : State} (h : s.TablesIntact) (k : BankIx) (j : Nibble) :
    inBase (entryAt (s.bank k) j) = true := by
  obtain ⟨-, hbanks, -⟩ := h
  rw [State.bank, hbanks]
  exact inBase_bankTable k.toFin j.toFin

/-- A byte as a word is 0 above bit 7. -/
theorem zext32_lt (b : Byte) : (zext32 b).toNat < 0x800 := by
  rw [zext32_toNat]
  exact b.isLt.trans (by decide)

theorem reset_tablesIntact : State.reset.TablesIntact := ⟨rfl, keySchedule_baseAlphabet, rfl⟩

end Sys2Proof.Machine

/-! ## The registers as numbers (R24, R29, R55, R57) -/

namespace Sys2Proof.Machine

/-- `STATUS` as a number: its fields do not overlap (R24). -/
theorem statusWord_toNat (s : State) : s.statusWord.toNat =
    s.encPos.val + 2 ^ 8 * s.decPos.val + 2 ^ 16 * s.decPend.toNat + 2 ^ 24 * s.err.toNat +
      2 ^ 25 * s.ecause.toNat := by
  simp only [State.statusWord, toNat_append, toNat_ofBool, posBits_toNat]
  simp; omega

/-- The bits of `STATUS` that R24 says read 0 are 0. -/
theorem statusWord_reserved_bits (s : State) : s.statusWord &&& 0xF8FEE0E0#32 = 0#32 := by
  have hmask : 0xF8FEE0E0#32 =
      31#5 ++ 0#2 ++ 0#1 ++ 127#7 ++ 0#1 ++ 7#3 ++ 0#5 ++ 7#3 ++ 0#5 := by decide
  rw [hmask, State.statusWord]
  iterate 8 rw [BitVec.and_append]
  simp

/-- The bits of `DPEND` above `PCHAR` are 0 (R29). -/
theorem dpendWord_reserved_bits (s : State) : s.dpendWord &&& 0xFFFFFF00#32 = 0#32 := by
  have hmask : 0xFFFFFF00#32 = 0xFFFFFF#24 ++ 0#8 := by decide
  have hword : s.dpendWord = 0#24 ++ s.pchar := by
    apply BitVec.eq_of_toNat_eq
    rw [State.dpendWord, zext32_toNat, toNat_append]
    simp
  rw [hmask, hword, BitVec.and_append]
  simp

/-- `WORKw` as a number: lane `4w + i` is its byte `i` (R57). -/
theorem workWord_toNat (v : Lanes) (w : Fin 4) : (workWord v w).toNat =
    (v.get (laneOf w 0)).toNat + 2 ^ 8 * (v.get (laneOf w 1)).toNat +
      2 ^ 16 * (v.get (laneOf w 2)).toNat + 2 ^ 24 * (v.get (laneOf w 3)).toNat := by
  simp only [workWord, toNat_append]
  omega

/-- `STATUS` determines its five fields (R24). -/
theorem statusWord_inj {s t : State} (h : s.statusWord = t.statusWord) :
    s.encPos = t.encPos ∧ s.decPos = t.decPos ∧ s.decPend = t.decPend ∧ s.err = t.err ∧ s.ecause = t.ecause := by
  have hn := congrArg BitVec.toNat h
  rw [statusWord_toNat, statusWord_toNat] at hn
  have := s.decPend.toNat_lt
  have := t.decPend.toNat_lt
  have := s.err.toNat_lt
  have := t.err.toNat_lt
  have hbool : ∀ a b : Bool, a.toNat = b.toNat → a = b := by decide
  exact ⟨Fin.ext (by omega), Fin.ext (by omega), hbool _ _ (by omega), hbool _ _ (by omega),
    BitVec.eq_of_toNat_eq (by omega)⟩

/-- `DPEND` determines `PCHAR` (R29). -/
theorem dpendWord_inj {s t : State} (h : s.dpendWord = t.dpendWord) : s.pchar = t.pchar := by
  apply BitVec.eq_of_toNat_eq
  rw [← zext32_toNat, ← zext32_toNat]
  exact congrArg BitVec.toNat h

/-- Byte `i` of `WORKw` is lane `4w + i` (R57). -/
theorem busByte_workWord (v : Lanes) (w i : Fin 4) : busByte (workWord v w) i.val = v.get (laneOf w i) := by
  apply BitVec.eq_of_toNat_eq
  simp only [busByte, BitVec.extractLsb'_toNat, Nat.shiftRight_eq_div_pow, workWord_toNat]
  fin_cases i <;> simp <;> omega

/-- Every lane is a byte of one of the four words (R30). -/
theorem exists_laneOf (j : Fin 16) : ∃ w i : Fin 4, j = laneOf w i := by revert j; decide

/-- `WORK0..3` determine `WORK` (R30). -/
theorem work_eq_of_workWord {a b : Lanes} (h : ∀ w, workWord a w = workWord b w) : a = b := by
  refine Vector.ext fun j hj => ?_
  obtain ⟨w, i, hlane⟩ := exists_laneOf ⟨j, hj⟩
  have hget : a.get ⟨j, hj⟩ = b.get ⟨j, hj⟩ := by
    rw [hlane, ← busByte_workWord, ← busByte_workWord, h w]
  exact hget

end Sys2Proof.Machine

/-! ## What each command does, said once, and its frame (R35) -/

namespace Sys2Proof.Machine

/-- How a command that meets R83's operand ranges takes `s` to its next state: the updates of R35 and no other. Which lanes
the permuter writes is left open, and of a table read only the layout of RESULT is said. -/
inductive CommandEffect (s : State) : Instr → State → Prop where
  /-- R210 -/
  | nop : CommandEffect s .nop s
  /-- R163 -/
  | enc (x : Byte) :
      CommandEffect s (.enc x) ((s.setResult (encodeByte (s.bankFor s.encPos) x)).setEncPos (nextPosition s.encPos))
  /-- R164 -/
  | encrst : CommandEffect s .encrst (s.setEncPos 0)
  /-- R184, a character outside the base set -/
  | noise {c : Byte} (hc : inBase c = false) : CommandEffect s (.decc c) (deccNoise s)
  /-- R184, the first character of a pair -/
  | firstChar {c : Byte} (hc : inBase c = true) (hp : s.decPend = false) : CommandEffect s (.decc c) (deccFirst c s)
  /-- R184, the second character of a pair -/
  | secondChar {c : Byte} (hc : inBase c = true) (hp : s.decPend = true) : CommandEffect s (.decc c) (deccSecond c s)
  /-- R185 -/
  | decrst : CommandEffect s .decrst ((s.dropChar.setDecPos 0).setResult (decrstResult s.decPend))
  /-- R211 -/
  | errclr : CommandEffect s .errclr (s.setError false 0)
  /-- R106, R107, R108 -/
  | permuter {i : Instr} (hi : permuterCommand i = true) (a : Lanes) : CommandEffect s i (s.setWork a)
  /-- R140, R141, R142: the word read is 0 above bit 10 -/
  | tableRead {i : Instr} (hi : writesResult i = true) {v : Word} (hv : v.toNat < 0x800) :
      CommandEffect s i (s.setResult v)

/-- A found character's result is 0 above bit 8 (R141). -/
theorem foundResult_lt (j : Nibble) : (foundResult j).toNat < 0x800 := by
  simp only [foundResult, toNat_append]
  simp; omega

/-- A schedule entry is a 3-bit number (R142). -/
theorem schedResult_lt (k : BankIx) : (schedResult k).toNat < 0x800 := by
  simp [schedResult]; omega

/-- DECC's result is 0 above bit 10 (R184). -/
theorem deccResult_lt (pend acc ov : Bool) (x : Byte) : (deccResult pend acc ov x).toNat < 0x800 := by
  rw [deccResult_toNat]
  have := pend.toNat_lt
  have := acc.toNat_lt
  have := ov.toNat_lt
  omega

/-- DECRST's result is 0 above bit 0 (R185). -/
theorem decrstResult_lt (dropped : Bool) : (decrstResult dropped).toNat < 0x800 := by
  cases dropped <;> decide

/-- DECC is noise, the first character of a pair, or the second (R184). -/
theorem execDecc_effect {c : Byte} {s t : State} (h : execDecc c s = .next t) : CommandEffect s (.decc c) t := by
  unfold execDecc at h
  split at h
  case isTrue hc =>
    split at h
    case isTrue hp => cases h; exact .secondChar hc hp
    case isFalse hp => cases h; exact .firstChar hc (by simpa using hp)
  case isFalse hc => cases h; exact .noise (by simpa using hc)

/-- LUTRD of an index in range reads a byte (R140). -/
theorem execLutrd_effect {k : BankIx} {j : Byte} {s t : State} (hj : lutrdInRange j = true)
    (h : execLutrd k j s = .next t) : CommandEffect s (.lutrd k j) t := by
  simp only [execLutrd, lutrdIndex, hj, if_true] at h
  cases h
  exact .tableRead rfl (zext32_lt _)

/-- LUTIDX finds the character or answers 0 (R141). -/
theorem execLutidx_effect {k : BankIx} {c : Byte} {s t : State} (h : execLutidx k c s = .next t) :
    CommandEffect s (.lutidx k c) t := by
  unfold execLutidx at h
  split at h
  case isTrue => cases h; exact .tableRead rfl (foundResult_lt _)
  case isFalse => cases h; exact .tableRead rfl (by decide)

/-- SCHRD of an index in range reads a schedule entry (R142). -/
theorem execSchrd_effect {j : Byte} {s t : State} (hj : schrdInRange j = true) (h : execSchrd j s = .next t) :
    CommandEffect s (.schrd j) t := by
  have hlt : j.toNat < 24 := of_decide_eq_true hj
  simp only [execSchrd, schrdIndex, hlt, dif_pos] at h
  cases h
  exact .tableRead rfl (schedResult_lt _)

/-- The inversion of `exec`: a well-formed command has the effect of its own rule. -/
theorem exec_effect {i : Instr} {s t : State} (hi : i.wellFormed = true) (h : exec i s = .next t) :
    CommandEffect s i t := by
  cases i with
  | nop => cases h; exact .nop
  | enc x => cases h; exact .enc x
  | encrst => cases h; exact .encrst
  | decc c => exact execDecc_effect h
  | decrst => cases h; exact .decrst
  | errclr => cases h; exact .errclr
  | xform n => cases h; exact .permuter rfl _
  | ldbase => cases h; exact .permuter rfl _
  | ldbank k => cases h; exact .permuter rfl _
  | lutrd k j => exact execLutrd_effect hi h
  | lutidx k c => exact execLutidx_effect h
  | schrd j => exact execSchrd_effect hi h

/-- A word that decodes runs a well-formed command (R88). -/
theorem exec_effect_of_decode {w : Word} {i : Instr} {s t : State} (hd : decode w = .ok i)
    (hx : exec i s = .next t) : CommandEffect s i t := by
  obtain ⟨-, -, -, -, hwf⟩ := decode_ok hd
  exact exec_effect hwf hx

/-- The one word that decodes to ERRCLR (R83). -/
theorem eq_of_decode_errclr {w : Word} (h : decode w = .ok .errclr) : w = 0x05000000 := by
  obtain ⟨hopc, hrsv, hk, ha, -⟩ := decode_ok h
  apply BitVec.eq_of_toNat_eq
  rw [toNat_eq_fields, ← hopc, hrsv, ← hk, ← ha]
  rfl

/-- What R35 lets command `i` change from `s` to `t`: the four parts of the block by the commands that write them, and
neither the tables nor the host's side. -/
structure CommandFrame (i : Instr) (s t : State) : Prop where
  result : writesResult i = false → t.result = s.result
  encoder : encoderCommand i = false → t.encPos = s.encPos
  decoder : decoderCommand i = false → t.decPos = s.decPos ∧ t.decPend = s.decPend ∧ t.pchar = s.pchar
  error : i ≠ .errclr → t.err = s.err ∧ t.ecause = s.ecause
  work : permuterCommand i = false → t.work = s.work
  tables : t.banks = s.banks ∧ t.sched = s.sched ∧ t.base = s.base
  host : t.pending = s.pending ∧ t.returned = s.returned ∧ t.resetLine = s.resetLine

theorem CommandEffect.frame {i : Instr} {s t : State} (h : CommandEffect s i t) : CommandFrame i s t := by
  cases h with
  | nop => constructor <;> simp
  | enc x => constructor <;> simp [writesResult, encoderCommand]
  | encrst => constructor <;> simp [encoderCommand]
  | noise _ => constructor <;> simp [deccNoise, writesResult]
  | firstChar _ _ => constructor <;> simp [deccFirst, writesResult, decoderCommand]
  | secondChar _ _ => constructor <;> simp [deccSecond, writesResult, decoderCommand]
  | decrst => constructor <;> simp [writesResult, decoderCommand]
  | errclr => constructor <;> simp
  | permuter hi a => constructor <;> simp [hi]
  | tableRead hi _ => constructor <;> simp [hi]

end Sys2Proof.Machine

/-! ## Error entry and the release of reset (R231, R260) -/

namespace Sys2Proof.Machine

/-- Releasing an asserted reset is the step to `afterReset` (R260). -/
theorem step_releaseReset {s : State} {rest : List HostEvent} (hr : s.resetLine = true)
    (hp : s.pending = .releaseReset :: rest) : step s = .next (s.setPending rest).afterReset := by
  rw [step_event hp]
  simp [perform, releaseReset, hr]

/-- Error entry leaves the tables as they are (R231). -/
theorem raiseCmdError_tables (e : CmdError) (s : State) :
    (raiseCmdError e s).banks = s.banks ∧ (raiseCmdError e s).sched = s.sched ∧ (raiseCmdError e s).base = s.base := by
  simp [raiseCmdError_eq]

/-- Error entry with ERR already 1 changes nothing (R231). -/
theorem raiseCmdError_of_err {s : State} (e : CmdError) (h : s.err = true) : raiseCmdError e s = s := by
  simp [raiseCmdError, h]

end Sys2Proof.Machine

/-! ## Each update of the state keeps the invariant of R34 -/

namespace Sys2Proof.Machine

theorem reset_inv : State.reset.Inv := ⟨reset_tablesIntact, by decide, by decide, by decide⟩

section
variable {s : State} (h : s.Inv)
include h

/-- Writing RESULT with a legal layout. -/
theorem inv_setResult {v : Word} (hv : (s.setResult v).ResultLegal) : (s.setResult v).Inv := by
  obtain ⟨htab, hheld, herr, -⟩ := h
  exact ⟨htab, hheld, herr, hv⟩

/-- Writing RESULT with a word that is 0 above bit 10. -/
theorem inv_setResult_of_lt {v : Word} (hv : v.toNat < 0x800) : (s.setResult v).Inv :=
  inv_setResult h (.inl hv)

/-- Two characters of an intact bank are ENC's layout (R163). -/
theorem inv_setResult_encodeByte (k : BankIx) (x : Byte) : (s.setResult (encodeByte (s.bank k) x)).Inv := by
  have htab : s.TablesIntact := h.1
  refine inv_setResult h (.inr ⟨?_, ?_, ?_⟩)
  · apply BitVec.eq_of_toNat_eq
    simp [encodeByte, encResult_toNat, Nat.shiftRight_eq_div_pow]
    omega
  · simpa [encodeByte] using inBase_entryAt_bank htab k (lowNibble x)
  · simpa [encodeByte] using inBase_entryAt_bank htab k (highNibble x)

/-- The invariant does not look at the positions: they are below 24 by their type. -/
theorem inv_setDecPos (p : Position) : (s.setDecPos p).Inv := h

/-- Holding a base-set character. -/
theorem inv_holdChar {c : Byte} (hc : inBase c = true) : (s.holdChar c).Inv := by
  obtain ⟨htab, -, herr, hres⟩ := h
  exact ⟨htab, ⟨by simp, fun _ => hc⟩, herr, hres⟩

/-- Dropping the held character clears PCHAR with DEC_PEND. -/
theorem inv_dropChar : s.dropChar.Inv := by
  obtain ⟨htab, -, herr, hres⟩ := h
  exact ⟨htab, ⟨fun _ => rfl, by simp⟩, herr, hres⟩

/-- Writing ERR and ECAUSE so that they agree. -/
theorem inv_setError {e : Bool} {cause : BitVec 2} (he : e = false ↔ cause = 0) : (s.setError e cause).Inv := by
  obtain ⟨htab, hheld, -, hres⟩ := h
  exact ⟨htab, hheld, he, hres⟩

/-- Error entry: a cause code is never 0 (R232). -/
theorem inv_raiseCmdError (e : CmdError) : (raiseCmdError e s).Inv := by
  rcases raiseCmdError_cases e s with ⟨-, heq⟩ | ⟨-, heq⟩
  · rwa [heq]
  · rw [heq]
    exact inv_setError h (by simpa using cmdErrorCode_ne_zero e)

/-- Every well-formed command keeps the invariant. -/
theorem CommandEffect.keeps_inv {i : Instr} {t : State} (ht : CommandEffect s i t) : t.Inv := by
  cases ht with
  | nop => exact h
  | enc x => exact inv_setResult_encodeByte h _ x
  | encrst => exact h
  | noise _ => exact inv_setResult_of_lt h (deccResult_lt ..)
  | firstChar hc _ => exact inv_setResult_of_lt (inv_holdChar h hc) (deccResult_lt ..)
  | secondChar _ _ => exact inv_setResult_of_lt (inv_setDecPos (inv_dropChar h) _) (deccResult_lt ..)
  | decrst => exact inv_setResult_of_lt (inv_setDecPos (inv_dropChar h) 0) (decrstResult_lt _)
  | errclr => exact inv_setError h (by simp)
  | permuter _ a => exact h
  | tableRead _ hv => exact inv_setResult_of_lt h hv

end

/-- Deasserting reset establishes the invariant, whatever the state was (R260). -/
theorem inv_afterReset (s : State) : s.afterReset.Inv := reset_inv

/-- The step lemma of R34: the events of `step_cases` one by one; the invariant does not look at the host's side, at WORK
or at the level of reset. -/
theorem step_keeps_inv {s t : State} (h : s.Inv) (hst : step s = .next t) : t.Inv := by
  rcases step_cases hst with ⟨-, rfl⟩ | ⟨e, rest, -, hcase⟩
  · exact h
  · have hq : (s.setPending rest).Inv := h
    rcases hcase with rfl | ⟨-, v, rfl⟩ | ⟨-, a, rfl⟩ | ⟨-, w, i, -, hd, hx⟩ | ⟨-, w, x, -, -, rfl⟩ | ⟨-, rfl⟩ |
      ⟨-, -, rfl⟩
    · exact hq
    · exact hq
    · exact hq
    · exact (exec_effect_of_decode hd hx).keeps_inv hq
    · exact inv_raiseCmdError hq x
    · exact hq
    · exact inv_afterReset _

end Sys2Proof.Machine

/-! ## The statements about the state -/

namespace Sys2Proof.Machine

/-- Settles O20: the tables are those of R133, nothing is held, and no error is set. -/
theorem resetMeetsInvariant : Obligations.ResetMeetsInvariant := reset_inv

/-- Settles O21: every update a step can make keeps the invariant. -/
theorem stepKeepsInvariant : Obligations.StepKeepsInvariant := fun _ _ h hst => step_keeps_inv h hst

/-- Settles O17: each register at reset, and the banks by the Key Scheduler. -/
theorem resetStateValues : Obligations.ResetStateValues := by
  refine ⟨fun r => ?_, keySchedule_baseAlphabet, rfl, rfl, rfl, rfl, rfl⟩
  cases r with
  | work w => revert w; decide
  | _ => rfl

/-- Settles O16: the step ends in `afterReset`, whose elements are those of `State.reset`. -/
theorem resetGivesEveryElementItsValue : Obligations.ResetGivesEveryElementItsValue := by
  intro s rest hr hp
  have hstatus : State.reset.statusWord = 0 := by decide
  have hdpend : State.reset.dpendWord = 0 := by decide
  obtain ⟨hw0, hw1, hw2, hw3⟩ := workWord_baseAlphabet
  exact ⟨_, step_releaseReset hr hp, rfl, rfl, rfl, rfl, rfl, rfl, rfl, hstatus, hdpend, hw0, hw1, hw2, hw3, rfl,
    keySchedule_baseAlphabet, rfl, baseAlphabet_get_toNat, rfl, rfl, rfl⟩

/-- Settles O22: the invariant holds at reset and every step keeps it; the bits of STATUS and DPEND that read 0 are 0 by
their layouts, in every state. -/
theorem reachableStatesAreLegal : Obligations.ReachableStatesAreLegal := by
  intro events k t hrun
  have hstart : (State.reset.setPending events).Inv := reset_inv
  obtain ⟨-, ⟨hempty, hheld⟩, herr, hres⟩ : t.Inv := runSteps_keeps (fun _ _ => step_keeps_inv) k hstart hrun
  exact ⟨t.encPos.isLt, t.decPos.isLt, hempty, fun hp => (inBase_iff _).1 (hheld hp), herr,
    statusWord_reserved_bits t, dpendWord_reserved_bits t, hres⟩

/-- Settles O23: of the events of `step_cases` only the release of reset writes a table. -/
theorem tablesNeverWritten : Obligations.TablesNeverWritten := by
  intro s t hst
  rcases step_cases hst with ⟨-, rfl⟩ | ⟨e, rest, hp, hcase⟩
  · exact .inl ⟨rfl, rfl, rfl⟩
  · rcases hcase with rfl | ⟨-, v, rfl⟩ | ⟨-, a, rfl⟩ | ⟨-, w, i, -, hd, hx⟩ | ⟨-, w, x, -, -, rfl⟩ | ⟨-, rfl⟩ |
      ⟨rfl, hr, -⟩
    · exact .inl ⟨rfl, rfl, rfl⟩
    · exact .inl ⟨rfl, rfl, rfl⟩
    · exact .inl ⟨rfl, rfl, rfl⟩
    · exact .inl (exec_effect_of_decode hd hx).frame.tables
    · exact .inl (raiseCmdError_tables x _)
    · exact .inl ⟨rfl, rfl, rfl⟩
    · exact .inr ⟨hr, rest, hp⟩

/-- Settles O24: of the commands only ERRCLR writes ERR back, and a second error keeps the first cause. -/
theorem errorStaysUntilCleared : Obligations.ErrorStaysUntilCleared := by
  intro s t herr hst
  rcases step_cases hst with ⟨-, rfl⟩ | ⟨e, rest, hp, hcase⟩
  · exact .inl ⟨herr, rfl⟩
  · rcases hcase with rfl | ⟨-, v, rfl⟩ | ⟨-, a, rfl⟩ | ⟨-, w, i, rfl, hd, hx⟩ | ⟨-, w, x, -, -, rfl⟩ | ⟨-, rfl⟩ |
      ⟨rfl, hr, -⟩
    · exact .inl ⟨herr, rfl⟩
    · exact .inl ⟨herr, rfl⟩
    · exact .inl ⟨herr, rfl⟩
    · by_cases hi : i = .errclr
      · subst hi
        exact .inr (.inl ⟨rest, eq_of_decode_errclr hd ▸ hp⟩)
      · obtain ⟨he, hc⟩ := (exec_effect_of_decode hd hx).frame.error hi
        exact .inl ⟨he.trans herr, hc⟩
    · rw [raiseCmdError_of_err (s := s.setPending rest) x herr]
      exact .inl ⟨herr, rfl⟩
    · exact .inl ⟨herr, rfl⟩
    · exact .inr (.inr ⟨hr, rest, hp⟩)

/-- Settles O25: the frame of the effect that a well-formed command has. -/
theorem commandsWriteOnlyTheirFields : Obligations.CommandsWriteOnlyTheirFields := by
  intro i s t hi hx
  obtain ⟨hresult, henc, hdec, herr, hwork, ⟨hbanks, hsched, hbase⟩, hhost⟩ := (exec_effect hi hx).frame
  exact ⟨hresult, henc, hdec, herr, hwork, hbanks, hsched, hbase, hhost⟩

/-- Settles O27: each register determines the elements it shows. -/
theorem windowShowsAllState : Obligations.WindowShowsAllState := by
  intro s t h
  obtain ⟨henc, hdec, hpend, herr, hcause⟩ := statusWord_inj (h .status)
  exact ⟨h .result, henc, hdec, hpend, dpendWord_inj (h .dpend), herr, hcause,
    work_eq_of_workWord fun w => h (.work w)⟩

end Sys2Proof.Machine

/-! ## The host's accesses, by what they reach (R51, R52, R53) -/

namespace Sys2Proof.Machine

/-- The two bus accesses of a size at an offset: what they reach does not depend on which of them it is. -/
inductive HostEvent.Access (off : Int) (size : AccessSize) : HostEvent → Prop where
  | read : Access off size (.read off size)
  | write (v : Word) : Access off size (.write off size v)

/-- Every register stands at a multiple of 4 (R51). -/
theorem Reg.offset_emod_four (r : Reg) : r.offset % 4 = 0 := by
  cases r with
  | work w => simp only [Reg.offset]; omega
  | _ => rfl

/-- The eight multiples of 4 in the window are the registers' offsets (R51). -/
theorem exists_offset_eq {off : Int} (h0 : 0 ≤ off) (h1 : off < 0x20) (h4 : off % 4 = 0) :
    ∃ r : Reg, off = r.offset := by
  obtain hlow | hwork : off < 0x10 ∨ 0x10 ≤ off := by omega
  · obtain rfl | rfl | rfl | rfl : off = 0x00 ∨ off = 0x04 ∨ off = 0x08 ∨ off = 0x0C := by omega
    · exact ⟨.cmd, rfl⟩
    · exact ⟨.result, rfl⟩
    · exact ⟨.status, rfl⟩
    · exact ⟨.dpend, rfl⟩
  · refine ⟨.work ⟨((off - 0x10) / 4).toNat, by omega⟩, ?_⟩
    simp only [Reg.offset]
    omega

/-- An access that starts in the window has a byte in it. -/
theorem outsideWindow_eq_false {off : Int} (size : AccessSize) (h0 : 0 ≤ off) (h1 : off < 0x20) :
    outsideWindow off size = false := by
  have hbytes : 0 < size.bytes := by cases size <;> decide
  have habove : ¬(Config.winSize : Int) ≤ off := not_le.2 h1
  have hbelow : ¬off + size.bytes ≤ 0 := by omega
  simp only [outsideWindow, habove, hbelow, decide_false, Bool.or_self]

/-- An access with a byte in the window is not one outside it (R53). -/
theorem targetOf_ne_outside {off : Int} {size : AccessSize} (h : outsideWindow off size = false) :
    targetOf off size ≠ .outside := by
  cases size with
  | byte => simp [targetOf, h]
  | half => simp [targetOf, h]
  | word => cases hreg : regAt off <;> simp [targetOf, h, hreg]

/-- An access in the window that is not of 32 bits at a multiple of 4 has no meaning (R52). -/
theorem targetOf_eq_undefined {off : Int} {size : AccessSize} (h0 : 0 ≤ off) (h1 : off < 0x20)
    (h : ¬(size = .word ∧ off % 4 = 0)) : targetOf off size = .undefined := by
  cases ht : targetOf off size with
  | undefined => rfl
  | outside => exact absurd ht (targetOf_ne_outside (outsideWindow_eq_false size h0 h1))
  | reg r =>
    obtain ⟨rfl, rfl⟩ := access_of_target ht
    exact absurd ⟨rfl, r.offset_emod_four⟩ h

end Sys2Proof.Machine

/-! ## What a read and a write of a register do (R55, R56) -/

namespace Sys2Proof.Machine

/-- No register shows what the host has still to issue (R36). -/
@[simp] theorem readReg_setPending (r : Reg) (s : State) (q : List HostEvent) :
    readReg r (s.setPending q) = readReg r s := by cases r <;> rfl

/-- No register shows what has been returned to the host (R36). -/
@[simp] theorem readReg_pushReturned (r : Reg) (s : State) (v : Word) :
    readReg r (s.pushReturned v) = readReg r s := by cases r <;> rfl

/-- What a read returns, as the number that the fields make (R24, R29, R55, R57). -/
theorem readReg_toNat (r : Reg) (s : State) : (readReg r s).toNat = registerValue r s := by
  cases r with
  | cmd => rfl
  | result => rfl
  | status => exact statusWord_toNat s
  | dpend => exact zext32_toNat s.pchar
  | work w => exact workWord_toNat s.work w

/-- Byte `i` of a bus word as a number (R56). -/
theorem busByte_toNat (v : Word) (i : Nat) : (busByte v i).toNat = v.toNat / 2 ^ (8 * i) % 2 ^ 8 := by
  simp [busByte, Nat.shiftRight_eq_div_pow]

/-- A lane after a write of WORKw: its byte of the word, or what it held (R56). -/
theorem writeWorkWord_get (a : Lanes) (w : Fin 4) (v : Word) (j : Fin 16) :
    (writeWorkWord a w v).get j = if j.val / 4 = w.val then busByte v (j.val % 4) else a.get j := by
  rw [writeWorkWord, get_ofFn]

/-- A word is its four bytes, the lane order of a WORK register (R57). -/
theorem eq_append_busByte (v : Word) : v = busByte v 3 ++ busByte v 2 ++ busByte v 1 ++ busByte v 0 := by
  apply BitVec.eq_of_toNat_eq
  have := v.isLt
  simp only [toNat_append, busByte_toNat]
  omega

/-- WORKw reads as the word last written to it (R57, R63). -/
theorem workWord_writeWorkWord_same (a : Lanes) (w : Fin 4) (v : Word) :
    workWord (writeWorkWord a w v) w = v := by
  simp only [workWord, writeWorkWord_same]
  exact (eq_append_busByte v).symm

/-- WORKw' does not see a write of another WORK register (R56). -/
theorem workWord_writeWorkWord_other (a : Lanes) {w w' : Fin 4} (v : Word) (h : w ≠ w') :
    workWord (writeWorkWord a w v) w' = workWord a w' := by
  simp only [workWord, writeWorkWord_other a _ v h]

end Sys2Proof.Machine

/-! ## An event that completes (R62, R63) -/

namespace Sys2Proof.Machine

/-- Two steps that answer are a run of two steps. -/
theorem runSteps_two {s t u : State} (h : step s = .next t) (h' : step t = .next u) : runSteps 2 s = .next u := by
  rw [runSteps_succ h, runSteps_succ h']
  rfl

/-- The event is answered with a next state that keeps the events still to come and returns at most one more value. -/
def Completes (e : HostEvent) (s : State) : Prop :=
  ∃ (t : State) (out : List Word),
    perform e s = .next t ∧ t.pending = s.pending ∧ t.returned = s.returned ++ out ∧ out.length ≤ 1

/-- Performing an event that returns nothing to the host. -/
theorem completes_of_silent {e : HostEvent} {s t : State} (h : perform e s = .next t) (hp : t.pending = s.pending)
    (hret : t.returned = s.returned) : Completes e s :=
  ⟨t, [], h, hp, by rw [hret, List.append_nil], Nat.zero_le 1⟩

/-- The step of an event that completes: it is taken off the list. -/
theorem step_of_completes {s : State} {e : HostEvent} {rest : List HostEvent} (hp : s.pending = e :: rest)
    (h : Completes e (s.setPending rest)) :
    ∃ (t : State) (out : List Word),
      step s = .next t ∧ t.pending = rest ∧ t.returned = s.returned ++ out ∧ out.length ≤ 1 := by
  rw [step_event hp]
  exact h

/-- A command word answers a next state whatever its checks say, and does not touch the host's side (R88, R231). -/
theorem runCommand_answers (w : Word) (s : State) :
    ∃ t, runCommand w s = .next t ∧ t.pending = s.pending ∧ t.returned = s.returned := by
  rcases runCommand_cases w s with ⟨i, hd, hrun⟩ | ⟨e, -, hrun⟩
  · obtain ⟨t, ht⟩ := exec_answers i s
    obtain ⟨hpend, hret, -⟩ := (exec_effect_of_decode hd ht).frame.host
    exact ⟨t, hrun.trans ht, hpend, hret⟩
  · exact ⟨_, hrun, by simp [raiseCmdError_eq], by simp [raiseCmdError_eq]⟩

/-- A write to any register answers a next state and does not touch the host's side (R56). -/
theorem writeReg_answers (r : Reg) (v : Word) (s : State) :
    ∃ t, writeReg r v s = .next t ∧ t.pending = s.pending ∧ t.returned = s.returned := by
  rcases writeReg_cases r v s with ⟨-, hw⟩ | hw | ⟨a, hw⟩
  · rw [hw]; exact runCommand_answers v s
  · exact ⟨s, hw, rfl, rfl⟩
  · exact ⟨_, hw, rfl, rfl⟩

section
variable {e : HostEvent} {off : Int} {size : AccessSize} (h : e.Access off size)
include h

/-- An access outside the window changes nothing (R53). -/
theorem perform_outside (ht : targetOf off size = .outside) (s : State) : perform e s = .next s := by
  cases h with
  | read => simp [perform, busRead, ht]
  | write v => simp [perform, busWrite, ht]

/-- An access with no meaning is refused (R52). -/
theorem perform_undefined (ht : targetOf off size = .undefined) (s : State) :
    perform e s = .refused .undefinedAccess := by
  cases h with
  | read => simp [perform, busRead, ht]
  | write v => simp [perform, busWrite, ht]

/-- Out of reset, an access to a register completes (R62). -/
theorem completes_of_register {r : Reg} (ht : targetOf off size = .reg r) {s : State} (hr : s.resetLine = false) :
    Completes e s := by
  cases h with
  | read =>
    have hread : perform (.read off size) s = .next (s.pushReturned (readReg r s)) := by
      simp [perform, busRead, ht, hr]
    exact ⟨_, [readReg r s], hread, rfl, rfl, le_rfl⟩
  | write v =>
    have hwrite : perform (.write off size v) s = writeReg r v s := by simp [perform, busWrite, ht, hr]
    obtain ⟨t, hw, hp, hret⟩ := writeReg_answers r v s
    exact completes_of_silent (hwrite.trans hw) hp hret

/-- An access with a meaning is one outside the window, or one to a register out of reset (R52, R260). -/
theorem HostEvent.Access.target_of_legal {inReset : Bool} (hl : e.legal inReset = true) :
    targetOf off size = .outside ∨ (inReset = false ∧ ∃ r, targetOf off size = .reg r) := by
  have htarget : targetOf off size ≠ .undefined ∧ (targetOf off size = .outside ∨ inReset = false) := by
    cases h <;> simpa [HostEvent.legal] using hl
  obtain ⟨hdef, hreach⟩ := htarget
  cases ht : targetOf off size with
  | outside => exact .inl rfl
  | undefined => exact absurd ht hdef
  | reg r => exact .inr ⟨hreach.resolve_left (by simp [ht]), r, rfl⟩

/-- An access with a meaning completes (R62, R63; log entry 6). -/
theorem HostEvent.Access.completes {s : State} (hl : e.legal s.resetLine = true) : Completes e s := by
  rcases h.target_of_legal hl with ht | ⟨hr, r, ht⟩
  · exact completes_of_silent (perform_outside h ht s) rfl rfl
  · exact completes_of_register h ht hr

end

/-- Every event with a meaning completes (R62, R63; log entries 3 and 6). -/
theorem completes_of_legal {e : HostEvent} {s : State} (hl : e.legal s.resetLine = true) : Completes e s := by
  cases e with
  | read off size => exact HostEvent.Access.read.completes hl
  | write off size v => exact (HostEvent.Access.write v).completes hl
  | assertReset => exact completes_of_silent (t := s.setResetLine true) rfl rfl rfl
  | releaseReset =>
    rcases releaseReset_cases s with ⟨-, heq⟩ | ⟨-, heq⟩
    · exact completes_of_silent (t := s.afterReset) (congrArg _ heq) rfl rfl
    · exact completes_of_silent (t := s) (congrArg _ heq) rfl rfl

end Sys2Proof.Machine

/-! ## The statements about the register window -/

namespace Sys2Proof.Machine

/-- Settles O10: a read leaves every register as it is, so the second one returns the same. -/
theorem readsReturnRegisterValues : Obligations.ReadsReturnRegisterValues := by
  intro s r rest hr
  constructor
  · intro hp
    exact ⟨readReg r s, readReg_toNat r s, step_read hr hp⟩
  · intro hp
    have hsecond := step_read (s := (s.setPending (.read r.offset .word :: rest)).pushReturned (readReg r s)) hr rfl
    rw [readReg_pushReturned, readReg_setPending] at hsecond
    refine ⟨readReg r s, (runSteps_two (step_read hr hp) hsecond).trans ?_⟩
    simp [State.setPending, State.pushReturned]

/-- Settles O11: `writeReg` register by register. -/
theorem writesActByRegister : Obligations.WritesActByRegister := by
  intro s r v rest hr hp
  have hstep := step_write hr hp
  cases r with
  | cmd => exact hstep
  | result => exact hstep
  | status => exact hstep
  | dpend => exact hstep
  | work w =>
    refine ⟨writeWorkWord s.work w v, hstep, fun j => ?_⟩
    rw [writeWorkWord_get, apply_ite BitVec.toNat, busByte_toNat]

/-- Settles O12: the lanes of WORKw after the write are the word's bytes, those of the other registers what they were. -/
theorem workReadsSeeTheLastWrite : Obligations.WorkReadsSeeTheLastWrite := by
  intro s w w' v rest hr hp
  have hread : workWord (writeWorkWord s.work w v) w' = if w = w' then v else workWord s.work w' := by
    split
    case isTrue h => subst h; exact workWord_writeWorkWord_same s.work w v
    case isFalse h => exact workWord_writeWorkWord_other s.work v h
  have hfirst : step s = .next ((s.setPending (.read (Reg.work w').offset .word :: rest)).setWork
    (writeWorkWord s.work w v)) := step_write hr hp
  refine ⟨_, runSteps_two hfirst (step_read hr rfl), rfl, ?_⟩
  simpa [readReg] using hread

/-- Settles O14: an access in the window is to a register exactly if it is of 32 bits at a multiple of 4. -/
theorem onlyAlignedWordAccessesAreDefined : Obligations.OnlyAlignedWordAccessesAreDefined := by
  intro s off size v rest hr h0 h1 hp
  obtain ⟨e, he, hpend⟩ : ∃ e : HostEvent, e.Access off size ∧ s.pending = e :: rest := by
    rcases hp with hp | hp
    · exact ⟨_, .read, hp⟩
    · exact ⟨_, .write v, hp⟩
  split
  case isTrue h =>
    obtain ⟨rfl, h4⟩ := h
    obtain ⟨r, rfl⟩ := exists_offset_eq h0 h1 h4
    obtain ⟨t, -, hstep, hrest, -⟩ := step_of_completes hpend (completes_of_register he (targetOf_offset r) hr)
    exact ⟨t, hstep, hrest⟩
  case isFalse h =>
    rw [step_event hpend]
    exact perform_undefined he (targetOf_eq_undefined h0 h1 h) _

/-- Settles O26: an event with a meaning completes. -/
theorem legalAccessesComplete : Obligations.LegalAccessesComplete :=
  fun _ _ _ hp hl => step_of_completes hp (completes_of_legal hl)

/-- Settles O8: a word that decodes is run as its command. -/
theorem stepRunsDecodedCommand : Obligations.StepRunsDecodedCommand := by
  intro s w i rest hr hp hd
  rw [step_cmd hr hp, runCommand, hd]
  rfl

/-- Settles O13: such an access reaches nothing of SPTC. -/
theorem accessesAboveWindowLeaveState : Obligations.AccessesAboveWindowLeaveState := by
  intro s off size v rest h
  have ht := targetOf_above off size h
  exact ⟨fun hp => (step_event hp).trans (perform_outside .read ht _),
    fun hp => (step_event hp).trans (perform_outside (.write v) ht _)⟩

/-- Settles O15: the base is 32 times a number, and an offset is the distance from it. -/
theorem windowBaseIsAlignedAndOffsetsAreRelative : Obligations.WindowBaseIsAlignedAndOffsetsAreRelative := by
  refine ⟨Nat.mul_mod_right Config.winSize Config.windowNumber, fun off => ?_⟩
  simp only [offsetOf]
  omega

end Sys2Proof.Machine

/-! ## The encoder and the decoder as inverses (R81, R83, R87) -/

namespace Sys2Proof

/-- An encoded word is its four fields side by side, with RSV 0 (R81, R87). -/
theorem encode_eq_append (i : Instr) : encode i = i.opc ++ 0#13 ++ i.kField ++ i.aField := by
  have h := BitVec.setWidth_append_append_append_eq_shiftLeft_setWidth_or (w'''' := 32)
    (b := i.opc) (b' := 0#13) (b'' := i.kField) (b''' := i.aField)
  simpa [encode] using h.symm

/-- An encoded word as the number of R87. -/
theorem encode_toNat (i : Instr) :
    (encode i).toNat = i.opc.toNat * 2 ^ 24 + i.kField.toNat * 2 ^ 8 + i.aField.toNat := by
  simp only [encode_eq_append, Machine.toNat_append, BitVec.toNat_ofNat]
  omega

@[simp] theorem opcOf_encode (i : Instr) : opcOf (encode i) = i.opc := by
  apply BitVec.eq_of_toNat_eq
  rw [opcOf_toNat, encode_toNat]
  omega

@[simp] theorem rsvOf_encode (i : Instr) : rsvOf (encode i) = 0 := by
  apply BitVec.eq_of_toNat_eq
  rw [rsvOf_toNat, encode_toNat]
  change _ = 0
  omega

@[simp] theorem kOf_encode (i : Instr) : kOf (encode i) = i.kField := by
  apply BitVec.eq_of_toNat_eq
  rw [kOf_toNat, encode_toNat]
  omega

@[simp] theorem aOf_encode (i : Instr) : aOf (encode i) = i.aField := by
  apply BitVec.eq_of_toNat_eq
  rw [aOf_toNat, encode_toNat]
  omega

/-- A word with RSV 0 and the fields of a command is that command's word (R87). -/
theorem encode_eq_of_fields {w : Word} {i : Instr} (hopc : i.opc = opcOf w) (hrsv : rsvOf w = 0)
    (hk : i.kField = kOf w) (ha : i.aField = aOf w) : encode i = w := by
  apply BitVec.eq_of_toNat_eq
  simp [encode_toNat, toNat_eq_fields w, hopc, hrsv, hk, ha]

/-- A command's opcode and fields name it (R83). -/
theorem instrOf_fields (i : Instr) : instrOf i.opc i.kField i.aField = some i := by cases i <;> rfl

/-- Every command's opcode is one of the twelve, and the fields it does not use are 0 (R83). -/
theorem unusedFieldsZero (i : Instr) : Laws.UnusedFieldsZero.Statement i := by
  cases i with
  | nop => exact Laws.UnusedFieldsZero.nop
  | enc x => exact Laws.UnusedFieldsZero.enc x
  | encrst => exact Laws.UnusedFieldsZero.encrst
  | decc c => exact Laws.UnusedFieldsZero.decc c
  | decrst => exact Laws.UnusedFieldsZero.decrst
  | errclr => exact Laws.UnusedFieldsZero.errclr
  | xform n => exact Laws.UnusedFieldsZero.xform n
  | ldbase => exact Laws.UnusedFieldsZero.ldbase
  | ldbank k => exact Laws.UnusedFieldsZero.ldbank k
  | lutrd k j => exact Laws.UnusedFieldsZero.lutrd k j
  | lutidx k c => exact Laws.UnusedFieldsZero.lutidx k c
  | schrd j => exact Laws.UnusedFieldsZero.schrd j

/-- Check 2 of R88 passes an encoded word. -/
theorem reservedNonZero_encode (i : Instr) : reservedNonZero (encode i) = false := by
  obtain ⟨-, hk, ha⟩ := unusedFieldsZero i
  simpa [reservedNonZero, or_iff_not_imp_left] using ⟨hk, fun h => ha (by simpa using h)⟩

/-- Check 3 of R88 passes an encoded word exactly if its operand is in range. -/
theorem outOfRange_encode (i : Instr) : outOfRange (encode i) = !i.wellFormed := by
  rw [outOfRange, opcOf_encode, aOf_encode]
  cases i with
  | lutrd k j => simp [Instr.opc, Instr.aField, Instr.wellFormed]
  | schrd j => simp [Instr.opc, Instr.aField, Instr.wellFormed]
  | _ => rfl

/-- Decoding is the inverse of encoding on well-formed commands (R87). -/
theorem decode_encode {i : Instr} (h : i.wellFormed = true) : decode (encode i) = .ok i := by
  simp [decode, instrOf_fields, reservedNonZero_encode, outOfRange_encode, h]

/-- The words that decode to a command, by their fields (R83). -/
theorem decode_ok_iff (w : Word) (i : Instr) :
    decode w = .ok i ↔
      opcOf w = i.opc ∧ rsvOf w = 0 ∧ kOf w = i.kField ∧ aOf w = i.aField ∧ i.wellFormed = true := by
  constructor
  · intro h
    obtain ⟨hopc, hrsv, hk, ha, hwf⟩ := decode_ok h
    exact ⟨hopc.symm, hrsv, hk.symm, ha.symm, hwf⟩
  · rintro ⟨hopc, hrsv, hk, ha, hwf⟩
    rw [← encode_eq_of_fields hopc.symm hrsv hk.symm ha.symm]
    exact decode_encode hwf

/-- A word decodes to a command exactly if it is the command's own word (R87). -/
theorem decode_ok_iff_encode (w : Word) (i : Instr) : decode w = .ok i ↔ i.wellFormed = true ∧ encode i = w := by
  constructor
  · intro h
    obtain ⟨hopc, hrsv, hk, ha, hwf⟩ := decode_ok h
    exact ⟨hwf, encode_eq_of_fields hopc hrsv hk ha⟩
  · rintro ⟨hwf, rfl⟩
    exact decode_encode hwf

/-- A well-formed command has one word, the one it is encoded as (R87). -/
theorem decode_ok_iff_eq {i : Instr} (hi : i.wellFormed = true) (w : Word) : decode w = .ok i ↔ w = encode i := by
  rw [decode_ok_iff_encode, and_iff_right hi, eq_comm]

end Sys2Proof

/-! ## A row's mask and match, by the fields of the word (R83, opcode_table.json) -/

namespace Sys2Proof

/-- A word is its four fields side by side (R81). -/
theorem eq_append_fields (w : Word) : w = opcOf w ++ rsvOf w ++ kOf w ++ aOf w := by
  apply BitVec.eq_of_toNat_eq
  rw [toNat_eq_fields]
  simp only [Machine.toNat_append]
  omega

/-- Concatenations of the same widths are equal exactly if their parts are. -/
theorem append_eq_append_iff {n m : Nat} {a a' : BitVec n} {b b' : BitVec m} :
    a ++ b = a' ++ b' ↔ a = a' ∧ b = b' := by
  constructor
  · intro h
    refine ⟨?_, ?_⟩
    · simpa only [BitVec.extractLsb'_append_eq_left] using congrArg (BitVec.extractLsb' m n) h
    · simpa only [BitVec.extractLsb'_append_eq_right] using congrArg (BitVec.extractLsb' 0 m) h
  · rintro ⟨rfl, rfl⟩; rfl

/-- A word under a mask that takes OPC and RSV whole, and of K and A what `mk` and `ma` take. -/
theorem and_fieldMask_eq_iff (w : Word) (o : BitVec 8) (mk : BankIx) (ma : Byte) :
    w &&& (255#8 ++ 8191#13 ++ mk ++ ma) = o ++ 0#13 ++ 0#3 ++ 0#8 ↔
      opcOf w = o ∧ rsvOf w = 0 ∧ kOf w &&& mk = 0 ∧ aOf w &&& ma = 0 := by
  have hopc : opcOf w &&& 255#8 = opcOf w := BitVec.and_allOnes
  have hrsv : rsvOf w &&& 8191#13 = rsvOf w := BitVec.and_allOnes
  conv_lhs => rw [eq_append_fields w]
  iterate 3 rw [BitVec.and_append]
  rw [hopc, hrsv, append_eq_append_iff, append_eq_append_iff, append_eq_append_iff, and_assoc, and_assoc]
  rfl

/-- The mask of a row that uses `A` alone: OPC, RSV and K are fixed. -/
theorem opcRsvK_mask_eq_iff (w : Word) (o : BitVec 8) :
    w &&& 0xFFFFFF00#32 = o ++ 0#13 ++ 0#3 ++ 0#8 ↔ opcOf w = o ∧ rsvOf w = 0 ∧ kOf w = 0 := by
  have hk : kOf w &&& 7#3 = kOf w := BitVec.and_allOnes
  simpa [hk] using and_fieldMask_eq_iff w o 7 0

/-- The mask of a row that uses `K` alone: OPC, RSV and A are fixed. -/
theorem opcRsvA_mask_eq_iff (w : Word) (o : BitVec 8) :
    w &&& 0xFFFFF8FF#32 = o ++ 0#13 ++ 0#3 ++ 0#8 ↔ opcOf w = o ∧ rsvOf w = 0 ∧ aOf w = 0 := by
  have ha : aOf w &&& 255#8 = aOf w := BitVec.and_allOnes
  simpa [ha] using and_fieldMask_eq_iff w o 0 255

/-- The mask of a row that uses `K` and `A`: OPC and RSV are fixed. -/
theorem opcRsv_mask_eq_iff (w : Word) (o : BitVec 8) :
    w &&& 0xFFFFF800#32 = o ++ 0#13 ++ 0#3 ++ 0#8 ↔ opcOf w = o ∧ rsvOf w = 0 := by
  simpa using and_fieldMask_eq_iff w o 0 0

/-- The words of a row that uses `A` alone. -/
theorem exists_decode_byteOperand (f : Byte → Instr) {o : BitVec 8}
    (hf : ∀ a, (f a).opc = o ∧ (f a).kField = 0 ∧ (f a).aField = a) (w : Word) :
    (∃ a, decode w = .ok (f a)) ↔
      w &&& 0xFFFFFF00#32 = o ++ 0#13 ++ 0#3 ++ 0#8 ∧ (f (aOf w)).wellFormed = true := by
  simp [decode_ok_iff, hf, opcRsvK_mask_eq_iff, and_assoc]

/-- The words of a row that uses `K` alone. -/
theorem exists_decode_bankOperand (f : BankIx → Instr) {o : BitVec 8}
    (hf : ∀ k, (f k).opc = o ∧ (f k).kField = k ∧ (f k).aField = 0) (w : Word) :
    (∃ k, decode w = .ok (f k)) ↔
      w &&& 0xFFFFF8FF#32 = o ++ 0#13 ++ 0#3 ++ 0#8 ∧ (f (kOf w)).wellFormed = true := by
  simp [decode_ok_iff, hf, opcRsvA_mask_eq_iff, and_assoc]

/-- The words of a row that uses `K` and `A`. -/
theorem exists_decode_bankAndByteOperands (f : BankIx → Byte → Instr) {o : BitVec 8}
    (hf : ∀ k a, (f k a).opc = o ∧ (f k a).kField = k ∧ (f k a).aField = a) (w : Word) :
    (∃ k a, decode w = .ok (f k a)) ↔
      w &&& 0xFFFFF800#32 = o ++ 0#13 ++ 0#3 ++ 0#8 ∧ (f (kOf w) (aOf w)).wellFormed = true := by
  simp [decode_ok_iff, hf, opcRsv_mask_eq_iff, and_assoc]

/-- LUTRD's operand range on the number of the word (R140). -/
theorem lutrdInRange_aOf (w : Word) : lutrdInRange (aOf w) = true ↔ w.toNat % 256 < 16 := by
  rw [lutrdInRange, aOf_toNat]
  exact decide_eq_true_iff

/-- SCHRD's operand range on the number of the word (R142). -/
theorem schrdInRange_aOf (w : Word) : schrdInRange (aOf w) = true ↔ w.toNat % 256 < 24 := by
  rw [schrdInRange, aOf_toNat]
  exact decide_eq_true_iff

end Sys2Proof

/-! ## The checks of R88 on the number of a word, and the error each raises -/

namespace Sys2Proof

/-- Membership in a list of bit vectors, read on their numbers. -/
theorem mem_iff_toNat_mem {n : Nat} (x : BitVec n) (l : List (BitVec n)) : x ∈ l ↔ x.toNat ∈ l.map BitVec.toNat :=
  (List.mem_map_of_injective fun _ _ => BitVec.eq_of_toNat_eq).symm

/-- Check 1 of R88. -/
theorem opcOf_mem_definedOpcodes_iff (w : Word) : opcOf w ∈ definedOpcodes ↔
    w.toNat / 2 ^ 24 ∈ [0x00, 0x01, 0x02, 0x03, 0x04, 0x05, 0x10, 0x11, 0x12, 0x20, 0x21, 0x22] := by
  rw [← opcOf_toNat, mem_iff_toNat_mem]
  rfl

/-- Check 2 of R88. -/
theorem reservedNonZero_iff (w : Word) : reservedNonZero w = true ↔
    w.toNat / 2 ^ 11 % 2 ^ 13 ≠ 0 ∨ (w.toNat / 2 ^ 24 ∉ [0x12, 0x20, 0x21] ∧ w.toNat / 2 ^ 8 % 2 ^ 3 ≠ 0) ∨
      (w.toNat / 2 ^ 24 ∈ [0x00, 0x02, 0x04, 0x05, 0x11, 0x12] ∧ w.toNat % 2 ^ 8 ≠ 0) := by
  rw [← opcOf_toNat, ← rsvOf_toNat, ← kOf_toNat, ← aOf_toNat]
  simp only [reservedNonZero, Bool.or_eq_true, Bool.and_eq_true, bne_iff_ne, Bool.not_eq_true', ← Bool.not_eq_true,
    List.contains_iff_mem, mem_iff_toNat_mem, BitVec.toNat_eq, ne_eq, or_assoc]
  rfl

/-- Check 3 of R88. -/
theorem outOfRange_iff (w : Word) : outOfRange w = true ↔
    (w.toNat / 2 ^ 24 = 0x20 ∧ 16 ≤ w.toNat % 2 ^ 8) ∨ (w.toNat / 2 ^ 24 = 0x22 ∧ 24 ≤ w.toNat % 2 ^ 8) := by
  rw [← opcOf_toNat, ← aOf_toNat]
  simp [outOfRange, lutrdInRange, schrdInRange, BitVec.toNat_eq]

/-- A word whose opcode is none of the twelve fails check 1, whatever its other bits are (R85). -/
theorem decode_illegalOpcode {w : Word} (h : opcOf w ∉ definedOpcodes) : decode w = .error .illegalOpcode := by
  rw [decode, (instrOf_none_iff _ _ _).2 h]

/-- The opcodes of R85 are 244: 23 of them below 0x23, and all 221 from there on. -/
theorem undefinedOpcodes_length :
    ((List.range 256).filter fun o => (6 ≤ o ∧ o ≤ 0x0F) ∨ (0x13 ≤ o ∧ o ≤ 0x1F) ∨ 0x23 ≤ o).length = 244 := by
  rw [List.range_add (n := 0x23) (m := 221), List.filter_append, List.length_append]
  have hhigh : ((List.range 221).map (0x23 + ·)).filter
      (fun o => (6 ≤ o ∧ o ≤ 0x0F) ∨ (0x13 ≤ o ∧ o ≤ 0x1F) ∨ 0x23 ≤ o) = (List.range 221).map (0x23 + ·) := by
    rw [List.filter_eq_self]
    simp
  rw [hhigh, List.length_map, List.length_range]
  rfl

end Sys2Proof

namespace Sys2Proof.Machine

/-- A word that fails a check: the write is taken off the host's list and the error is entered (R231). -/
theorem step_of_decode_error {s : State} {w : Word} {e : CmdError} {rest : List HostEvent} (hr : s.resetLine = false)
    (hp : s.pending = .write 0 .word w :: rest) (hd : decode w = .error e) :
    step s = .next { s with pending := rest, err := true, ecause := if s.err then s.ecause else e.code } := by
  rw [step_cmd hr hp, runCommand, hd]
  exact congrArg _ (raiseCmdError_eq e _)

/-- A command of a word that decodes writes ERR and ECAUSE only as ERRCLR does (R88, R211). -/
theorem exec_error_of_decode {w : Word} {i : Instr} {s t : State} (hd : decode w = .ok i) (hx : exec i s = .next t) :
    if i = .errclr then t.err = false ∧ t.ecause = 0 else t.err = s.err ∧ t.ecause = s.ecause := by
  split
  case isTrue hi =>
    subst hi
    cases hx
    exact ⟨rfl, rfl⟩
  case isFalse hi => exact (exec_effect_of_decode hd hx).frame.error hi

/-- An index from 16 on names no entry of a bank (R140). -/
theorem lutrdIndex_eq_none {j : Byte} (h : 16 ≤ j.toNat) : lutrdIndex j = none := by
  simp [lutrdIndex, lutrdInRange, h]

/-- An index from 24 on names no entry of the schedule (R142). -/
theorem schrdIndex_eq_none {j : Byte} (h : 24 ≤ j.toNat) : schrdIndex j = none := by
  simp [schrdIndex, h]

end Sys2Proof.Machine

/-! ## The statements about the encoding -/

namespace Sys2Proof.Machine

/-- Settles O1: the number of the word gives its fields, and the checks of R88 pass them. -/
theorem encodedWordsDecodeBack : Obligations.EncodedWordsDecodeBack := fun i hi =>
  ⟨encode_toNat i, opcOf_encode i, rsvOf_encode i, kOf_encode i, aOf_encode i, decode_encode hi⟩

/-- Settles O2: a word that decodes has the fields of its command, and RSV 0. -/
theorem decodedWordsEncodeBack : Obligations.DecodedWordsEncodeBack := fun w i hd => (decode_ok_iff_encode w i).1 hd

/-- Settles O3: row by row, by the fields that the row's mask takes. -/
theorem opcodeTableRowsDecode : Obligations.OpcodeTableRowsDecode := by
  intro w
  refine ⟨decode_ok_iff_eq rfl w, ?enc, decode_ok_iff_eq rfl w, ?decc, decode_ok_iff_eq rfl w, decode_ok_iff_eq rfl w,
    ?xform, decode_ok_iff_eq rfl w, ?ldbank, ?lutrd, ?lutidx, ?schrd⟩
  case enc => exact (exists_decode_byteOperand .enc (fun _ => ⟨rfl, rfl, rfl⟩) w).trans (and_iff_left rfl)
  case decc => exact (exists_decode_byteOperand .decc (fun _ => ⟨rfl, rfl, rfl⟩) w).trans (and_iff_left rfl)
  case xform => exact (exists_decode_byteOperand .xform (fun _ => ⟨rfl, rfl, rfl⟩) w).trans (and_iff_left rfl)
  case ldbank => exact (exists_decode_bankOperand .ldbank (fun _ => ⟨rfl, rfl, rfl⟩) w).trans (and_iff_left rfl)
  case lutrd =>
    exact (exists_decode_bankAndByteOperands .lutrd (fun _ _ => ⟨rfl, rfl, rfl⟩) w).trans
      (and_congr_right' (lutrdInRange_aOf w))
  case lutidx =>
    exact (exists_decode_bankAndByteOperands .lutidx (fun _ _ => ⟨rfl, rfl, rfl⟩) w).trans (and_iff_left rfl)
  case schrd =>
    exact (exists_decode_byteOperand .schrd (fun _ => ⟨rfl, rfl, rfl⟩) w).trans (and_congr_right' (schrdInRange_aOf w))

/-- Settles O5: the four outcomes of `decode_by_checks` are the four branches of R88. -/
theorem commandChecksRunInOrder : Obligations.CommandChecksRunInOrder := by
  intro s w rest hr hp
  simp only [← opcOf_mem_definedOpcodes_iff, ← reservedNonZero_iff, ← outOfRange_iff]
  rcases decode_by_checks w with ⟨hopc, hd⟩ | ⟨hopc, hres, hd⟩ | ⟨hopc, hres, hrange, hd⟩ | ⟨hopc, hres, hrange, i, hd⟩
  · rw [if_pos hopc]
    exact step_of_decode_error hr hp hd
  · rw [if_neg (not_not.2 hopc), if_pos hres]
    exact step_of_decode_error hr hp hd
  · rw [if_neg (not_not.2 hopc), if_neg (by simp [hres]), if_pos hrange]
    exact step_of_decode_error hr hp hd
  · rw [if_neg (not_not.2 hopc), if_neg (by simp [hres]), if_neg (by simp [hrange])]
    have hstep := stepRunsDecodedCommand s w i rest hr hp hd
    obtain ⟨t, ht⟩ := exec_answers i (s.setPending rest)
    obtain ⟨hopcode, -, hk, ha, -⟩ := decode_ok hd
    have herr := exec_error_of_decode hd ht
    exact ⟨i, t, by rw [hopcode, opcOf_toNat], by rw [hk, kOf_toNat], by rw [ha, aOf_toNat], hstep, hstep.trans ht,
      herr⟩

/-- Settles O6: the three ranges leave out the twelve opcodes, so check 1 fails. -/
theorem undefinedOpcodesAreIllegal : Obligations.UndefinedOpcodesAreIllegal := by
  refine ⟨fun s w rest hr hp => ?_, undefinedOpcodes_length⟩
  dsimp only
  intro hopc
  have hundef : opcOf w ∉ definedOpcodes := by
    rw [opcOf_mem_definedOpcodes_iff]
    simp only [List.mem_cons, List.not_mem_nil, or_false]
    omega
  exact step_of_decode_error hr hp (decode_illegalOpcode hundef)

/-- Settles O46: no entry is named, so the command enters the error of check 3. -/
theorem outOfRangeIndexRaisesError : Obligations.OutOfRangeIndexRaisesError := by
  constructor
  · intro s k j hj
    rw [exec, execLutrd, lutrdIndex_eq_none hj]
    exact congrArg _ (raiseCmdError_eq _ s)
  · intro s j hj
    rw [exec, execSchrd, schrdIndex_eq_none hj]
    exact congrArg _ (raiseCmdError_eq _ s)

end Sys2Proof.Machine

/-! ## A command's word by its number, and its bits that must be zero (R83, R87, R88) -/

namespace Sys2Proof

/-- The number that R87 puts together from a command's fields is a word that decodes to the command. -/
theorem decode_ofNat {i : Instr} {m : Nat} (hi : i.wellFormed = true)
    (hm : m = i.opc.toNat * 2 ^ 24 + i.kField.toNat * 2 ^ 8 + i.aField.toNat) :
    decode (BitVec.ofNat 32 m) = .ok i := by
  rw [hm, ← encode_toNat, BitVec.ofNat_toNat, BitVec.setWidth_eq]
  exact decode_encode hi

/-- The bits of a word that must be zero for an opcode: RSV, `K` where it takes no bank, `A` where it takes no operand
(check 2 of R88). -/
def reservedMask (o : BitVec 8) : Word :=
  0#8 ++ 8191#13 ++ (if bankOpcodes.contains o then 0#3 else 7#3) ++
    (if noOperandOpcodes.contains o then 255#8 else 0#8)

/-- A word under a mask that takes RSV whole and nothing of OPC, and of K and A what `mk` and `ma` take. -/
theorem and_reservedFields_eq_zero {w : Word} {mk : BankIx} {ma : Byte} (hrsv : rsvOf w = 0)
    (hk : kOf w &&& mk = 0) (ha : aOf w &&& ma = 0) : w &&& (0#8 ++ 8191#13 ++ mk ++ ma) = 0 := by
  rw [eq_append_fields w]
  iterate 3 rw [BitVec.and_append]
  rw [hrsv, hk, ha]
  simp

/-- A word that passes check 2 of R88 has none of its opcode's reserved bits set. -/
theorem and_reservedMask_eq_zero {w : Word} (h : reservedNonZero w = false) : w &&& reservedMask (opcOf w) = 0 := by
  simp only [reservedNonZero, Bool.or_eq_false_iff, Bool.and_eq_false_iff, bne_eq_false_iff_eq,
    Bool.not_eq_false'] at h
  obtain ⟨⟨hrsv, hk⟩, ha⟩ := h
  refine and_reservedFields_eq_zero hrsv ?_ ?_
  · split
    case isTrue => exact BitVec.and_zero
    case isFalse hbank => rw [hk.resolve_left hbank]; exact BitVec.zero_and
  · split
    case isTrue hop => rw [ha.resolve_left (by rw [hop]; decide)]; exact BitVec.zero_and
    case isFalse => exact BitVec.and_zero

/-- A word of a defined opcode with a reserved bit set fails check 2 of R88. -/
theorem decode_reservedField {w : Word} (hopc : opcOf w ∈ definedOpcodes) (hw : w &&& reservedMask (opcOf w) ≠ 0) :
    decode w = .error .reservedField := by
  have hres : reservedNonZero w ≠ false := fun h => hw (and_reservedMask_eq_zero h)
  rcases decode_by_checks w with ⟨hundef, -⟩ | ⟨-, -, hd⟩ | ⟨-, hzero, -⟩ | ⟨-, hzero, -⟩
  · exact absurd hopc hundef
  · exact hd
  · exact absurd hzero hres
  · exact absurd hzero hres

namespace Machine

/-- The bits that must be zero for a defined opcode. -/
theorem mustBeZero_reservedMask {o : BitVec 8} (ho : o ∈ definedOpcodes) : MustBeZero o.toNat (reservedMask o) := by
  intro w hw hbits
  obtain rfl : opcOf w = o := BitVec.eq_of_toNat_eq ((opcOf_toNat w).trans hw)
  exact decode_reservedField ho hbits

end Machine

end Sys2Proof

/-! ## The transform chunk by chunk (R100, R101, R102) -/

namespace Sys2Proof.Machine

section
variable {α : Type} {n : Nat}

/-- A chunk takes at least one character, so any fuel from the length on gives the same. -/
theorem blockSwapChunks_eq_of_length_le (hn : 0 < n) {f g : Nat} {s : List α} (hf : s.length ≤ f)
    (hg : s.length ≤ g) : blockSwapChunks n f s = blockSwapChunks n g s := by
  induction f generalizing g s with
  | zero =>
    obtain rfl : s = [] := List.length_eq_zero_iff.1 (by omega)
    cases g <;> rfl
  | succ f ih =>
    cases s with
    | nil => cases g <;> rfl
    | cons x s =>
      cases g with
      | zero => simp at hg
      | succ g =>
        have hlen : ((x :: s).drop (2 * n)).length < (x :: s).length := by simp; omega
        simp only [blockSwapChunks]
        rw [ih (g := g) (by omega) (by omega)]

/-- `n = 0` is the identity (R100). -/
@[simp] theorem blockSwap_zero (s : List α) : blockSwap s 0 = s := rfl

/-- The transform swaps the two halves of the first chunk and goes on behind it (R100). -/
theorem blockSwap_eq_append (hn : 0 < n) (s : List α) :
    blockSwap s n = (s.drop n).take n ++ s.take n ++ blockSwap (s.drop (2 * n)) n := by
  simp only [blockSwap, if_neg hn.ne']
  cases s with
  | nil => simp [blockSwapChunks]
  | cons x s =>
    rw [List.length_cons, blockSwapChunks]
    rw [blockSwapChunks_eq_of_length_le (f := s.length) hn (by simp; omega) le_rfl]

/-- One chunk, whole or clamped, is rotated left by `n` (R100, R102). -/
theorem blockSwap_of_length_le (hn : 0 < n) {s : List α} (hs : s.length ≤ 2 * n) :
    blockSwap s n = s.drop n ++ s.take n := by
  rw [blockSwap_eq_append hn, List.drop_of_length_le hs, List.take_of_length_le (by simp; omega)]
  simp [blockSwap, blockSwapChunks]

/-- A half-width that takes the whole sequence leaves it as it is (R102). -/
theorem blockSwap_eq_self {s : List α} (hs : s.length ≤ n) : blockSwap s n = s := by
  rcases Nat.eq_zero_or_pos n with rfl | hn
  · rfl
  · rw [blockSwap_of_length_le hn (by omega), List.drop_of_length_le hs, List.take_of_length_le hs, List.nil_append]

/-- The transform is a rearrangement (R101). -/
theorem blockSwap_perm (s : List α) (n : Nat) : (blockSwap s n).Perm s := by
  rcases Nat.eq_zero_or_pos n with rfl | hn
  · rfl
  induction hlen : s.length using Nat.strong_induction_on generalizing s with
  | h l ih =>
    by_cases hs : s.length ≤ 2 * n
    · rw [blockSwap_of_length_le hn hs]
      exact List.perm_append_comm.trans (.of_eq (List.take_append_drop n s))
    · have hrest : (blockSwap (s.drop (2 * n)) n).Perm (s.drop (2 * n)) := ih _ (by simp; omega) _ rfl
      rw [blockSwap_eq_append hn]
      refine (List.perm_append_comm.append hrest).trans (.of_eq ?_)
      rw [← List.take_add, ← Nat.two_mul, List.take_append_drop]

/-- Behind the first chunk stands the transform of the rest (R100). -/
theorem drop_blockSwap_chunk (hn : 0 < n) (s : List α) :
    (blockSwap s n).drop (2 * n) = blockSwap (s.drop (2 * n)) n := by
  by_cases hs : s.length ≤ 2 * n
  · have hlen := (blockSwap_perm s n).length_eq
    rw [List.drop_of_length_le (by omega), List.drop_of_length_le hs]
    exact (blockSwap_eq_self (Nat.zero_le n)).symm
  · rw [blockSwap_eq_append hn, List.drop_left' (by simp; omega)]

/-- Behind the first `q` chunks stands the transform of the rest (R100). -/
theorem drop_blockSwap (hn : 0 < n) (s : List α) (q : Nat) :
    (blockSwap s n).drop (2 * n * q) = blockSwap (s.drop (2 * n * q)) n := by
  induction q generalizing s with
  | zero => rfl
  | succ q ih => rw [Nat.mul_succ, Nat.add_comm, ← List.drop_drop, drop_blockSwap_chunk hn, ih, List.drop_drop]

/-- R103's map on `len` lanes, which `laneSourceNat` is at 16: which entry the transform moves to place `j`. -/
def sourceIndex (len n j : Nat) : Nat :=
  if n = 0 then j
  else
    let base := 2 * n * (j / (2 * n))
    let chunk := min (2 * n) (len - base)
    let h := min n chunk
    let t := j - base
    if t < chunk - h then base + h + t else base + t - (chunk - h)

theorem laneSourceNat_eq_sourceIndex (n j : Nat) : laneSourceNat n j = sourceIndex 16 n j := rfl

/-- An entry of the first chunk (R100). -/
theorem blockSwap_getElem?_of_lt (hn : 0 < n) {s : List α} {t : Nat} (ht : t < 2 * n) (hs : t < s.length) :
    (blockSwap s n)[t]? = s[if t < min (2 * n) s.length - min n s.length then min n s.length + t
      else t - (min (2 * n) s.length - min n s.length)]? := by
  have hsecond : ((s.drop n).take n).length = min (2 * n) s.length - min n s.length := by simp; omega
  rw [blockSwap_eq_append hn, List.getElem?_append_left (by simp; omega), List.getElem?_append, hsecond]
  split
  case isTrue h =>
    rw [List.getElem?_take_of_lt (by omega), List.getElem?_drop, min_eq_left (by omega)]
  case isFalse h => rw [List.getElem?_take_of_lt (by omega)]

/-- The transform as a map of indices (R103, for a sequence of any length). -/
theorem blockSwap_getElem? {s : List α} {j : Nat} (hj : j < s.length) :
    (blockSwap s n)[j]? = s[sourceIndex s.length n j]? := by
  rcases Nat.eq_zero_or_pos n with rfl | hn
  · rfl
  have hbase : 2 * n * (j / (2 * n)) ≤ j := Nat.mul_div_le j (2 * n)
  have hplace : j - 2 * n * (j / (2 * n)) < 2 * n := by
    rw [← Nat.mod_eq_sub_mul_div]
    exact Nat.mod_lt j (by omega)
  have hchunk := congrArg (·[j - 2 * n * (j / (2 * n))]?) (drop_blockSwap hn s (j / (2 * n)))
  simp only [List.getElem?_drop, Nat.add_sub_cancel' hbase] at hchunk
  rw [hchunk, blockSwap_getElem?_of_lt hn hplace (by simp; omega), List.getElem?_drop, sourceIndex, if_neg hn.ne',
    List.length_drop]
  generalize 2 * n * (j / (2 * n)) = base at hbase hplace
  congr 1
  dsimp only
  split <;> split <;> omega

/-- Where every chunk is full, the halves of each are exchanged (R102). -/
theorem sourceIndex_of_dvd (hn : 0 < n) {len j : Nat} (hlen : len % (2 * n) = 0) (hj : j < len) :
    sourceIndex len n j = if j % (2 * n) < n then j + n else j - n := by
  have hfull : 2 * n * (j / (2 * n)) + 2 * n ≤ len := by
    obtain ⟨c, rfl⟩ := Nat.dvd_of_mod_eq_zero hlen
    rw [← Nat.mul_succ]
    exact Nat.mul_le_mul_left _ (Nat.div_lt_of_lt_mul hj)
  have hbase : 2 * n * (j / (2 * n)) ≤ j := Nat.mul_div_le j (2 * n)
  rw [sourceIndex, if_neg hn.ne', Nat.mod_eq_sub_mul_div]
  generalize 2 * n * (j / (2 * n)) = base at hfull hbase
  dsimp only
  split <;> split <;> omega

end

/-- Exchanging the halves of chunks of `2 ^ (m + 1)` is flipping bit `m` of the index (R102). -/
theorem xor_two_pow_eq_ite (j m : Nat) :
    j ^^^ 2 ^ m = if j % (2 * 2 ^ m) < 2 ^ m then j + 2 ^ m else j - 2 ^ m := by
  have hdiv : (j ^^^ 2 ^ m) / 2 ^ m = j / 2 ^ m ^^^ 1 := by
    rw [Nat.xor_div_two_pow, Nat.div_self (Nat.two_pow_pos m)]
  have hmod : (j ^^^ 2 ^ m) % 2 ^ m = j % 2 ^ m := by rw [Nat.xor_mod_two_pow, Nat.mod_self, Nat.xor_zero]
  have hsplit : j ^^^ 2 ^ m = 2 ^ m * (j / 2 ^ m ^^^ 1) + j % 2 ^ m := by rw [← hdiv, ← hmod, Nat.div_add_mod]
  have hj : 2 ^ m * (j / 2 ^ m) + j % 2 ^ m = j := Nat.div_add_mod j (2 ^ m)
  have hlow : j % 2 ^ m < 2 ^ m := Nat.mod_lt j (Nat.two_pow_pos m)
  rw [Nat.mul_comm 2, Nat.mod_mul, hsplit]
  rcases Nat.even_or_odd (j / 2 ^ m) with heven | hodd
  · rw [Nat.even_iff.1 heven, if_pos (by simpa using hlow), Nat.xor_one_of_even heven, Nat.mul_add]
    omega
  · have hbit : 2 ^ m * 1 ≤ 2 ^ m * (j / 2 ^ m) := Nat.mul_le_mul_left _ hodd.pos
    rw [Nat.odd_iff.1 hodd, if_neg (by simp), Nat.xor_one_of_odd hodd, Nat.mul_sub]
    omega

end Sys2Proof.Machine

/-! ## The permuter on 16 lanes, and the chains of the banks (R103, R106, R109) -/

namespace Sys2Proof.Machine

/-- A half-width of 16 or more takes all lanes as one chunk1 (R103). -/
theorem laneSource_eq_self {n : Nat} (hn : 16 ≤ n) (j : Fin 16) : laneSource n j = j := by
  have hj := j.isLt
  have hfirst : j.val / (2 * n) = 0 := Nat.div_eq_of_lt (by omega)
  apply Fin.ext
  simp only [laneSource, laneSourceNat, hfirst]
  split
  · rfl
  · split <;> omega

/-- On 16 lanes the transform is the lane map (R103). -/
theorem blockSwap_toList (v : Lanes) (n : Nat) :
    blockSwap v.toList n = (List.finRange 16).map fun j => v.get (laneSource n j) := by
  refine List.ext_getElem? fun j => ?_
  have hlen : (blockSwap v.toList n).length = 16 := by rw [(blockSwap_perm v.toList n).length_eq, v.length_toList]
  by_cases hj : j < 16
  · have hsource := laneSourceNat_lt n j hj
    rw [blockSwap_getElem? (by rwa [v.length_toList]), v.length_toList, ← laneSourceNat_eq_sourceIndex]
    simp [hj, hsource, laneSource, Vector.get]
  · rw [List.getElem?_eq_none (by omega), List.getElem?_eq_none (by simp; omega)]

/-- A lane of the permuted vector (R104). -/
theorem permute_get (v : Lanes) (n : Nat) (j : Fin 16) : (permute v n).get j = v.get (laneSource n j) := by
  rw [permute, get_ofFn]

/-- The network computes the transform of R100 (R104, R106). -/
theorem toList_permute (v : Lanes) (n : Nat) : (permute v n).toList = blockSwap v.toList n := by
  rw [blockSwap_toList, permute, Vector.toList_ofFn, List.ofFn_eq_map]

/-- No swap, or a half-width that takes all lanes, leaves them as they are (R106). -/
theorem permute_eq_self (v : Lanes) {n : Nat} (hn : n = 0 ∨ 16 ≤ n) : permute v n = v := by
  apply Vector.toList_inj.1
  rw [toList_permute]
  rcases hn with rfl | hn
  · rfl
  · exact blockSwap_eq_self (by rwa [v.length_toList])

/-- A command statement of the host runs its command (R87, R89). -/
theorem step_cmdStatement {i : Instr} {s : State} {rest : List HostEvent} (hi : i.wellFormed = true)
    (hr : s.resetLine = false) (hp : s.pending = cmdStatement i :: rest) : step s = exec i (s.setPending rest) :=
  stepRunsDecodedCommand s (encode i) i rest hr hp (decode_encode hi)

/-- A later write of the host's list and of WORK replaces an earlier one. -/
theorem setPending_setWork_overwrite (s : State) (q r : List HostEvent) (v u : Lanes) :
    (((s.setPending q).setWork v).setPending r).setWork u = (s.setPending r).setWork u := rfl

/-- XFORMS runs its half-widths one after the other and writes nothing but WORK (R90, R106). -/
theorem runSteps_xformsProgram (ns : List Byte) {s : State} {rest : List HostEvent} (hr : s.resetLine = false)
    (hp : s.pending = xformsProgram ns ++ rest) :
    runSteps ns.length s =
      .next ((s.setPending rest).setWork ((ns.map BitVec.toNat).foldl permute s.work)) := by
  induction ns generalizing s with
  | nil => subst hp; rfl
  | cons n ns ih =>
    have hstep : step s = .next ((s.setPending (xformsProgram ns ++ rest)).setWork (permute s.work n.toNat)) :=
      step_cmdStatement rfl hr hp
    have hrest := ih (s := (s.setPending (xformsProgram ns ++ rest)).setWork (permute s.work n.toNat))
      (by simpa using hr) (by simp)
    rw [setPending_setWork_overwrite, setWork_work] at hrest
    rw [List.length_cons, runSteps_succ hstep, hrest, List.map_cons, List.foldl_cons]

/-- The chain of XFORM operands of each bank's composition (R109, R132). -/
def xformChain (k : Fin 8) : List Byte :=
  ([[8], [4, 1], [8, 1], [1], [4], [2], [2, 1], [4, 2, 1]] : List (List Byte)).getD k.val []

/-- The chain of a bank makes it from the Base Alphabet (R132, R138). -/
theorem foldl_permute_xformChain (k : Fin 8) :
    ((xformChain k).map BitVec.toNat).foldl permute baseAlphabet = bankTable.get k := by
  have hchain : (xformChain k).map BitVec.toNat = bankChain.get k := by revert k; decide
  rw [hchain, ← keySchedule_baseAlphabet, keySchedule, get_ofFn]

end Sys2Proof.Machine

/-! ## The statements about the permuter -/

namespace Sys2Proof.Machine

/-- Settles O39: the length follows from the rearrangement. -/
theorem blockSwapRearranges : Obligations.BlockSwapRearranges := fun s n =>
  ⟨(blockSwap_perm s n).length_eq, blockSwap_perm s n⟩

/-- Settles O40: one chunk is a rotation, and full chunks exchange their halves. -/
theorem blockSwapSpecialCases : Obligations.BlockSwapSpecialCases := by
  intro s n
  refine ⟨rfl, blockSwap_eq_self, fun hs hn => blockSwap_of_length_le (by omega) hs, fun hn hlen j hj => ?_⟩
  have hentry : (blockSwap s n)[j]? = s[if j % (2 * n) < n then j + n else j - n]? := by
    rw [blockSwap_getElem? hj, sourceIndex_of_dvd hn hlen hj]
  refine ⟨hentry, ?_⟩
  rintro ⟨m, rfl⟩
  rw [hentry, xor_two_pow_eq_ite]

/-- Settles O38: the rows by evaluation, the transform by the map of indices. -/
theorem laneMapIsTheTable : Obligations.LaneMapIsTheTable :=
  ⟨by rfl, fun _ j hn => laneSource_eq_self hn j, blockSwap_toList⟩

/-- Settles O37: the network is the transform, and the word has one operand. -/
theorem xformIsBlockSwap : Obligations.XformIsBlockSwap := by
  refine ⟨fun s n => ⟨permute s.work n.toNat, ?exec, ?lanes, ?transform, ?identity, ?perm⟩, ?word, ?reserved⟩
  case exec => rfl
  case lanes => exact permute_get s.work n.toNat
  case transform => exact toList_permute s.work n.toNat
  case identity => exact permute_eq_self s.work
  case perm =>
    rw [toList_permute]
    exact blockSwap_perm _ _
  case word =>
    intro n
    refine decode_ofNat rfl ?_
    simp [Instr.opc, Instr.kField, Instr.aField]
  case reserved => exact mustBeZero_reservedMask (o := 0x10) (by decide)

/-- Settles O50: LDBASE puts the Base Alphabet into WORK, and the chain makes the bank of it. -/
theorem baseAndChainRebuildBank : Obligations.BaseAndChainRebuildBank := by
  intro s k rest htab hr chain hp
  obtain ⟨hbase, hbanks, -⟩ := htab
  have hload : step s = .next ((s.setPending (xformsProgram chain ++ rest)).setWork s.base) :=
    step_cmdStatement rfl hr hp
  have hbank : (chain.map BitVec.toNat).foldl permute s.base = s.banks.get k := by
    rw [hbase, hbanks]
    exact foldl_permute_xformChain k
  have hchain := runSteps_xformsProgram chain (s := (s.setPending (xformsProgram chain ++ rest)).setWork s.base) hr rfl
  rw [setPending_setWork_overwrite, setWork_work, hbank] at hchain
  rw [Nat.add_comm, runSteps_succ hload, hchain]
  rfl

/-- Settles O4: each word is the number of its command's fields. -/
theorem sampleWordsDecode : Obligations.SampleWordsDecode :=
  ⟨decode_ofNat rfl rfl, decode_ofNat rfl rfl, decode_ofNat rfl rfl, decode_ofNat rfl rfl, decode_ofNat rfl rfl,
    decode_ofNat rfl rfl, decode_ofNat rfl rfl, decode_ofNat rfl rfl⟩

/-- Settles O41: WORK takes the alphabet that the state holds. -/
theorem ldbaseLoadsBaseAlphabet : Obligations.LdbaseLoadsBaseAlphabet := by
  refine ⟨fun s => rfl, ?words, decode_ofNat rfl rfl, ?reserved⟩
  case words =>
    rintro s ⟨hbase, -, -⟩
    refine ⟨s.setWork s.base, rfl, ?_⟩
    rw [setWork_work, hbase]
    exact workWord_baseAlphabet
  case reserved => exact mustBeZero_reservedMask (o := 0x11) (by decide)

/-- Settles O42: WORK takes the bank that the state holds. -/
theorem ldbankCopiesBank : Obligations.LdbankCopiesBank := by
  refine ⟨fun s k => rfl, ?word, ?reserved⟩
  case word =>
    intro k
    refine decode_ofNat rfl ?_
    simp [Instr.opc, Instr.kField, Instr.aField, Nat.mul_comm]
  case reserved => exact mustBeZero_reservedMask (o := 0x12) (by decide)

end Sys2Proof.Machine

/-! ## The banks as index-XORs of the Base Alphabet, and where a character stands (R132, R134, R135, R136) -/

namespace Sys2Proof.Machine

/-- The chain of a bank run by the network is the chain of the transform (R104, R132). -/
theorem toList_foldl_permute (ns : List Nat) (v : Lanes) :
    (ns.foldl permute v).toList = ns.foldl blockSwap v.toList := by
  induction ns generalizing v with
  | nil => rfl
  | cons n ns ih => rw [List.foldl_cons, List.foldl_cons, ih, toList_permute]

/-- A chain of transforms is a rearrangement (R101). -/
theorem foldl_blockSwap_perm {α : Type} (ns : List Nat) (s : List α) : (ns.foldl blockSwap s).Perm s := by
  induction ns generalizing s with
  | nil => exact .refl s
  | cons n ns ih => exact (ih (blockSwap s n)).trans (blockSwap_perm s n)

/-- A bank is its composition on the Base Alphabet (R132). -/
theorem bankTable_toList (k : Fin 8) :
    (bankTable.get k).toList = (bankChain.get k).foldl blockSwap baseAlphabet.toList := by
  rw [← keySchedule_baseAlphabet, keySchedule, get_ofFn, toList_foldl_permute]

/-- The chains as a list (R132). -/
theorem bankChain_get (k : Fin 8) :
    bankChain.get k = ([[8], [4, 1], [8, 1], [1], [4], [2], [2, 1], [4, 2, 1]] : List (List Nat)).getD k.val [] := by
  revert k; decide

/-- The masks as a list of numbers (R134). -/
theorem bankMask_get_toNat (k : Fin 8) : (bankMask.get k).toNat = [8, 5, 9, 1, 4, 2, 3, 7].getD k.val 0 := by
  revert k; decide

/-- Every bank is the Base Alphabet with the index XORed by the bank's mask (R134). -/
theorem bankTable_get_toNat (k : Fin 8) (j : Fin 16) :
    ((bankTable.get k).get j).toNat = 0x6C + (j.val ^^^ (bankMask.get k).toNat) := by
  revert k j; decide

/-- A bank holds the base-set codes, each at the place that the bank's mask gives (R134, R136). -/
theorem bankTable_get_eq_iff (k : Fin 8) (j : Fin 16) (c : Byte) :
    (bankTable.get k).get j = c ↔
      (0x6C ≤ c.toNat ∧ c.toNat ≤ 0x7B) ∧ j.val = (c.toNat - 0x6C) ^^^ (bankMask.get k).toNat := by
  rw [BitVec.toNat_eq, bankTable_get_toNat]
  constructor
  · intro h
    have hlt : j.val ^^^ (bankMask.get k).toNat < 2 ^ 4 := Nat.xor_lt_two_pow j.isLt (bankMask.get k).isLt
    rw [← h, Nat.add_sub_cancel_left, Nat.xor_xor_cancel_right]
    omega
  · rintro ⟨⟨hlo, -⟩, hj⟩
    rw [hj, Nat.xor_xor_cancel_right]
    omega

/-- A base-set code stands at one place of each bank, that of R134 (R135, R136). -/
theorem exists_place_bankTable (k : Fin 8) {c : Byte} (hlo : 0x6C ≤ c.toNat) (hhi : c.toNat ≤ 0x7B) :
    ∃ j : Fin 16, j.val = (c.toNat - 0x6C) ^^^ (bankMask.get k).toNat ∧ ∀ i, (bankTable.get k).get i = c ↔ i = j := by
  have hlt : (c.toNat - 0x6C) ^^^ (bankMask.get k).toNat < 2 ^ 4 :=
    Nat.xor_lt_two_pow (by omega) (bankMask.get k).isLt
  refine ⟨⟨_, hlt⟩, rfl, fun i => ?_⟩
  rw [bankTable_get_eq_iff, and_iff_right ⟨hlo, hhi⟩, Fin.ext_iff]

/-- Where one place holds the character and no other does, `idx` is that place (R136). -/
theorem idx_eq_of_get_eq_iff {a : Lanes} {c : Byte} {j : Fin 16} (h : ∀ i, a.get i = c ↔ i = j) :
    idx a c = BitVec.ofFin j := by
  refine idx_of_placesOf ?_
  have hfilter : placesOf a c = (List.finRange 16).filter (· == j) :=
    List.filter_congr fun i _ => by rw [Bool.eq_iff_iff, beq_iff_eq, beq_iff_eq, h i]
  rw [hfilter, List.filter_beq, List.count_eq_one_of_mem (List.nodup_finRange 16) (List.mem_finRange j)]
  rfl

/-- The index of a bank's entry is where it stands (R136). -/
theorem idx_bankTable_get (k : Fin 8) (j : Fin 16) :
    idx (bankTable.get k) ((bankTable.get k).get j) = BitVec.ofFin j := by
  obtain ⟨⟨hlo, hhi⟩, -⟩ := (bankTable_get_eq_iff k j _).1 rfl
  obtain ⟨i, -, hplace⟩ := exists_place_bankTable k hlo hhi
  obtain rfl : j = i := (hplace j).1 rfl
  exact idx_eq_of_get_eq_iff hplace

end Sys2Proof.Machine

/-! ## The table reads (R140, R141, R142) -/

namespace Sys2Proof

/-- A word that passes checks 1 and 2 of R88 and whose index names no entry fails check 3. -/
theorem decode_operandRange {w : Word} (hopc : opcOf w ∈ definedOpcodes) (hres : reservedNonZero w = false)
    (hrange : outOfRange w = true) : decode w = .error .operandRange := by
  rcases decode_by_checks w with ⟨hundef, -⟩ | ⟨-, hset, -⟩ | ⟨-, -, -, hd⟩ | ⟨-, -, hin, -⟩
  · exact absurd hopc hundef
  · rw [hres] at hset; cases hset
  · exact hd
  · rw [hrange] at hin; cases hin

namespace Machine

/-- An index below 16 names the entry of that number (R140). -/
theorem lutrdIndex_eq_some {j : Byte} (h : j.toNat < 16) : lutrdIndex j = some (BitVec.ofFin ⟨j.toNat, h⟩) := by
  have hnibble : j.setWidth 4 = BitVec.ofFin ⟨j.toNat, h⟩ :=
    BitVec.eq_of_toNat_eq ((BitVec.toNat_setWidth 4 j).trans (Nat.mod_eq_of_lt h))
  rw [lutrdIndex, if_pos (by simpa [lutrdInRange] using h), hnibble]

/-- LUTRD of an index that names an entry reads it (R140). -/
theorem exec_lutrd (s : State) (k : BankIx) {j : Byte} (h : j.toNat < 16) :
    exec (.lutrd k j) s = .next (s.setResult (zext32 ((s.banks.get k.toFin).get ⟨j.toNat, h⟩))) := by
  rw [exec, execLutrd, lutrdIndex_eq_some h]
  rfl

/-- SCHRD of an index that names an entry reads it (R142). -/
theorem exec_schrd (s : State) {j : Byte} (h : j.toNat < 24) :
    exec (.schrd j) s = .next (s.setResult (schedResult (s.sched.get ⟨j.toNat, h⟩))) := by
  rw [exec, execSchrd, schrdIndex, dif_pos h]

/-- LUTIDX of a base-set code reports its index in the bank (R141). -/
theorem exec_lutidx_of_inBase (s : State) (k : BankIx) {c : Byte} (h : inBase c = true) :
    exec (.lutidx k c) s = .next (s.setResult (foundResult (idx (s.bank k) c))) := by
  rw [exec, execLutidx, if_pos h]

/-- LUTIDX of noise answers 0 (R141). -/
theorem exec_lutidx_of_not_inBase (s : State) (k : BankIx) {c : Byte} (h : inBase c ≠ true) :
    exec (.lutidx k c) s = .next (s.setResult notFoundResult) := by
  rw [exec, execLutidx, if_neg h]

/-- LUTIDX's layout as a number: `FOUND` at bit 8 (R141). -/
theorem foundResult_toNat (j : Nibble) : (foundResult j).toNat = 0x100 + j.toNat := by
  simp only [foundResult, toNat_append]
  rfl

/-- LUTIDX's result from its number (R141). -/
theorem foundResult_eq_ofNat (j : Nibble) : foundResult j = BitVec.ofNat 32 (0x100 + j.toNat) := by
  rw [← foundResult_toNat, BitVec.ofNat_toNat, BitVec.setWidth_eq]

/-- LUTIDX of a bank's entry finds it where it stands (R141). -/
theorem exec_lutidx_bank_get {s : State} (htab : s.TablesIntact) (k : BankIx) (j : Fin 16) :
    exec (.lutidx k ((s.banks.get k.toFin).get j)) s =
      .next (s.setResult (BitVec.ofNat 32 (0x100 + j.val))) := by
  obtain ⟨-, hbanks, -⟩ := htab
  have hidx : idx (s.bank k) ((bankTable.get k.toFin).get j) = BitVec.ofFin j := by
    rw [State.bank, hbanks]
    exact idx_bankTable_get k.toFin j
  rw [hbanks, exec_lutidx_of_inBase s k (inBase_bankTable k.toFin j), hidx, foundResult_eq_ofNat,
    BitVec.toNat_ofFin]

/-- The Rotation Schedule as a list of numbers (R137). -/
theorem rotationSchedule_get_toNat (p : Position) : (rotationSchedule.get p).toNat =
    [0, 1, 2, 3, 4, 0, 3, 5, 2, 1, 5, 4, 3, 6, 6, 2, 4, 2, 2, 4, 3, 2, 7, 7].getD p.val 0 := by
  revert p; decide

/-- A schedule entry as a number (R142). -/
theorem schedResult_toNat (k : BankIx) : (schedResult k).toNat = k.toNat :=
  BitVec.toNat_setWidth_of_le (by decide)

end Machine

end Sys2Proof

/-! ## The statements about the Key Scheduler and its tables -/

namespace Sys2Proof.Machine

/-- Settles O43: the entry is in the state, its value in the tables, and the words in the checks of R88. -/
theorem lutrdReadsEntry : Obligations.LutrdReadsEntry := by
  refine ⟨?exec, ?baseSet, ?range, ?word, mustBeZero_reservedMask (o := 0x20) (by decide)⟩
  case exec =>
    intro s k j h
    rw [exec_lutrd s k h, BitVec.ofNat_toNat]
    rfl
  case baseSet =>
    intro s k j htab h
    refine ⟨_, exec_lutrd s k h, ?_⟩
    rw [setResult_result, zext32_toNat, ← inBase_iff]
    exact inBase_entryAt_bank htab k (BitVec.ofFin ⟨j.toNat, h⟩)
  case range =>
    intro w hw hj
    obtain ⟨hopc, hrsv⟩ := (opcRsv_mask_eq_iff w 0x20).1 hw
    have hnum : w.toNat / 2 ^ 24 = 0x20 := by rw [← opcOf_toNat, hopc]; rfl
    exact decode_operandRange (by rw [hopc]; decide)
      (by simp [reservedNonZero, hopc, hrsv, bankOpcodes, noOperandOpcodes])
      ((outOfRange_iff w).2 (.inl ⟨hnum, hj⟩))
  case word =>
    intro k j h
    refine decode_ofNat (decide_eq_true h) ?_
    simp [Instr.opc, Instr.kField, Instr.aField, Nat.mul_comm]

/-- Settles O44: a base-set code is the entry at its place, and LUTIDX finds an entry where it stands. -/
theorem lutidxFindsCharacter : Obligations.LutidxFindsCharacter := by
  refine ⟨?found, ?noise, fun s k j htab => exec_lutidx_bank_get htab k j, ?word,
    mustBeZero_reservedMask (o := 0x21) (by decide)⟩
  case found =>
    intro s k c htab hlo hhi
    obtain ⟨j, -, hplace⟩ := exists_place_bankTable k.toFin hlo hhi
    have hj : (s.banks.get k.toFin).get j = c := by
      obtain ⟨-, hbanks, -⟩ := htab
      rw [hbanks, hplace]
    refine ⟨j, hj, ?_⟩
    rw [← hj]
    exact exec_lutidx_bank_get htab k j
  case noise =>
    intro s k c hc
    exact exec_lutidx_of_not_inBase s k (mt (inBase_iff c).1 hc)
  case word =>
    intro k c
    refine decode_ofNat rfl ?_
    simp [Instr.opc, Instr.kField, Instr.aField, Nat.mul_comm]

/-- Settles O45: the entry is in the state, its value in the tables, and the words in the checks of R88. -/
theorem schrdReadsEntry : Obligations.SchrdReadsEntry := by
  refine ⟨?exec, ?printed, ?range, ?word, mustBeZero_reservedMask (o := 0x22) (by decide)⟩
  case exec =>
    intro s j h
    rw [exec_schrd s h, BitVec.ofNat_toNat]
    rfl
  case printed =>
    rintro s j ⟨-, -, hsched⟩ h
    refine ⟨_, exec_schrd s h, ?_⟩
    rw [setResult_result, schedResult_toNat, hsched, rotationSchedule_get_toNat]
  case range =>
    intro w hw hj
    obtain ⟨hopc, hrsv, hk⟩ := (opcRsvK_mask_eq_iff w 0x22).1 hw
    have hnum : w.toNat / 2 ^ 24 = 0x22 := by rw [← opcOf_toNat, hopc]; rfl
    exact decode_operandRange (by rw [hopc]; decide)
      (by simp [reservedNonZero, hopc, hrsv, hk, noOperandOpcodes])
      ((outOfRange_iff w).2 (.inr ⟨hnum, hj⟩))
  case word =>
    intro j h
    refine decode_ofNat (decide_eq_true h) ?_
    simp [Instr.opc, Instr.kField, Instr.aField]

/-- Settles O47: the network derives the printed banks, and its chains are those of the transform. -/
theorem bankTableIsTheCompositions : Obligations.BankTableIsTheCompositions :=
  ⟨keySchedule_baseAlphabet, fun k => by rw [bankTable_toList, bankChain_get]⟩

/-- Settles O48: the masks are the printed ones, and a chain of transforms only rearranges. -/
theorem banksAreIndexXor : Obligations.BanksAreIndexXor := by
  refine ⟨fun k j => ?_, fun k => ?_⟩
  · rw [bankTable_get_toNat, bankMask_get_toNat]
  · rw [bankTable_toList]
    exact foldl_blockSwap_perm _ _

/-- Settles O49: a code that a bank holds is in the base set, and a base-set code has one place. -/
theorem idxIsUniquePlace : Obligations.IdxIsUniquePlace := by
  intro k c
  refine ⟨⟨?occurs, ?inBase⟩, ?place⟩
  case occurs =>
    rintro ⟨j, hj⟩
    exact ((bankTable_get_eq_iff k.toFin j c).1 hj).1
  case inBase =>
    rintro ⟨hlo, hhi⟩
    obtain ⟨j, -, hplace⟩ := exists_place_bankTable k.toFin hlo hhi
    exact ⟨j, (hplace j).2 rfl⟩
  case place =>
    intro hlo hhi
    obtain ⟨j, hj, hplace⟩ := exists_place_bankTable k.toFin hlo hhi
    rw [bankMask_get_toNat] at hj
    have hidx : (idx (bankAt bankTable k) c).toNat = j.val := congrArg BitVec.toNat (idx_eq_of_get_eq_iff hplace)
    rw [hidx]
    exact ⟨hj, fun i => (hplace i).trans Fin.ext_iff⟩

end Sys2Proof.Machine

/-! ## The two characters of a byte (R160, R162, R163) -/

namespace Sys2Proof.Machine

/-- The entry that the low nibble of a byte names (R163). -/
theorem entryAt_lowNibble (a : Lanes) (x : Byte) :
    entryAt a (lowNibble x) = a.get ⟨x.toNat % 16, Nat.mod_lt _ (by decide)⟩ :=
  congrArg a.get (Fin.ext (lowNibble_toNat x))

/-- The entry that the high nibble of a byte names (R163). -/
theorem entryAt_highNibble (a : Lanes) (x : Byte) :
    entryAt a (highNibble x) = a.get ⟨x.toNat / 16 % 16, Nat.mod_lt _ (by decide)⟩ :=
  congrArg a.get (Fin.ext (highNibble_toNat x))

/-- The low nibble's character is the low byte of ENC's result (R163). -/
@[simp] theorem busByte_zero_encodeByte (a : Lanes) (x : Byte) :
    busByte (encodeByte a x) 0 = entryAt a (lowNibble x) := busByte_zero_encResult _ _

/-- The high nibble's character is the byte above it (R163). -/
@[simp] theorem busByte_one_encodeByte (a : Lanes) (x : Byte) :
    busByte (encodeByte a x) 1 = entryAt a (highNibble x) := busByte_one_encResult _ _

/-- Bits [31:16] of ENC's result are 0 (R163). -/
theorem encodeByte_lt (a : Lanes) (x : Byte) : (encodeByte a x).toNat < 2 ^ 16 := by
  rw [encodeByte, encResult_toNat]
  omega

/-- ENC's result from its number (R163). -/
theorem encodeByte_eq_ofNat (a : Lanes) (x : Byte) :
    encodeByte a x =
      BitVec.ofNat 32 ((entryAt a (lowNibble x)).toNat + 2 ^ 8 * (entryAt a (highNibble x)).toNat) := by
  rw [encodeByte, ← encResult_toNat, BitVec.ofNat_toNat, BitVec.setWidth_eq]

/-- The printed mask sequence is the mask of the bank that the schedule picks (R134, R162). -/
theorem maskAt_eq_bankMask (p : Position) : maskAt p = (bankMask.get (rotationSchedule.get p).toFin).toNat := by
  revert p; decide

/-- The entries of the bank that the schedule picks, in the closed form of R162. -/
theorem entryAt_bankFor_toNat {s : State} (htab : s.TablesIntact) (p : Position) (j : Nibble) :
    (entryAt (s.bankFor p) j).toNat = 0x6C + (j.toNat ^^^ maskAt p) := by
  obtain ⟨-, hbanks, hsched⟩ := htab
  rw [State.bankFor, State.bank, hbanks, hsched, maskAt_eq_bankMask]
  exact bankTable_get_toNat _ j.toFin

/-- With the tables intact the bank of position `i mod 24` is the alphabet of the source at `i` (R160). -/
theorem bankFor_eq_sourceAlphabet {s : State} (htab : s.TablesIntact) {p : Position} {i : Nat} (hp : p.val = i % 24) :
    s.bankFor p = sourceAlphabet i := by
  obtain ⟨-, hbanks, hsched⟩ := htab
  obtain rfl : p = ⟨i % 24, Nat.mod_lt _ (by decide)⟩ := Fin.ext hp
  rw [State.bankFor, State.bank, hbanks, hsched]
  rfl

end Sys2Proof.Machine

/-! ## The lengths and the alphabet of the source's functions (R161, R181) -/

namespace Sys2Proof.Machine

/-- The source encodes a byte to two characters (R161). -/
theorem length_sourceEncodeFrom (i : Nat) (p : List Byte) : (sourceEncodeFrom i p).length = 2 * p.length := by
  induction p generalizing i with
  | nil => rfl
  | cons x p ih =>
    rw [sourceEncodeFrom, List.length_append, ih, List.length_cons, Nat.mul_succ, Nat.add_comm]
    rfl

/-- Every entry of every alphabet of the source is a base-set code (R135). -/
theorem inBase_sourceAlphabet (i : Nat) (j : Fin 16) : inBase ((sourceAlphabet i).get j) = true :=
  inBase_bankTable _ j

/-- The source encodes to base-set characters (R161). -/
theorem inBase_of_mem_sourceEncodeFrom {i : Nat} {p : List Byte} {c : Byte} (h : c ∈ sourceEncodeFrom i p) :
    inBase c = true := by
  induction p generalizing i with
  | nil => cases h
  | cons x p ih =>
    rcases List.mem_append.1 h with hunit | hrest
    · simp only [sourceUnit, List.mem_cons, List.not_mem_nil, or_false] at hunit
      rcases hunit with rfl | rfl
      · exact inBase_sourceAlphabet i _
      · exact inBase_sourceAlphabet i _
    · exact ih hrest

/-- Two filtered characters decode to a byte, and a last odd one to none (R181). -/
theorem length_sourcePairsFrom (i : Nat) (f : List Byte) : (sourcePairsFrom i f).length = f.length / 2 := by
  induction i, f using sourcePairsFrom.induct with
  | case1 i c1 c2 f ih => rw [sourcePairsFrom, List.length_cons, ih, List.length_cons, List.length_cons]; omega
  | case2 i c => simp [sourcePairsFrom]
  | case3 i => rw [sourcePairsFrom]; rfl

/-- The source's filter as a range of numbers (R131, R180). -/
theorem sourceFilter_eq (text : List Byte) :
    sourceFilter text = text.filter fun c => decide (0x6C ≤ c.toNat ∧ c.toNat ≤ 0x7B) :=
  List.filter_congr fun c _ => by rw [Bool.eq_iff_iff, inBase_iff, decide_eq_true_iff]

end Sys2Proof.Machine

/-! ## The ENCODE stream (R90, R165) -/

namespace Sys2Proof.Machine

/-- The words that the reads of an ENCODE stream return from stream position `i` on (R90, R163). -/
def encodeReadsFrom (i : Nat) : List Byte → List Word
  | [] => []
  | x :: p => encodeByte (sourceAlphabet i) x :: encodeReadsFrom (i + 1) p

/-- One word is returned for each byte (R165). -/
theorem length_encodeReadsFrom (i : Nat) (p : List Byte) : (encodeReadsFrom i p).length = p.length := by
  induction p generalizing i with
  | nil => rfl
  | cons x p ih => rw [encodeReadsFrom, List.length_cons, ih, List.length_cons]

/-- Bits [31:16] of each word are 0 (R163, R165). -/
theorem lt_of_mem_encodeReadsFrom {i : Nat} {p : List Byte} {v : Word} (h : v ∈ encodeReadsFrom i p) :
    v.toNat < 2 ^ 16 := by
  induction p generalizing i with
  | nil => cases h
  | cons x p ih =>
    rcases List.mem_cons.1 h with rfl | hrest
    · exact encodeByte_lt _ x
    · exact ih hrest

/-- The characters of the words, low byte first, are the text of the source (R160, R165). -/
theorem encodeOutput_encodeReadsFrom (i : Nat) (p : List Byte) :
    encodeOutput (encodeReadsFrom i p) = sourceEncodeFrom i p := by
  induction p generalizing i with
  | nil => rfl
  | cons x p ih =>
    have hunit : [busByte (encodeByte (sourceAlphabet i) x) 0, busByte (encodeByte (sourceAlphabet i) x) 1] =
        sourceUnit i x := by
      rw [busByte_zero_encodeByte, busByte_one_encodeByte, entryAt_lowNibble, entryAt_highNibble]
      rfl
    rw [sourceEncodeFrom, ← ih, ← hunit]
    rfl

/-- The position after `p`, modulo 24 (R163). -/
theorem nextPosition_val (p : Position) : (nextPosition p).val = (p.val + 1) % 24 := rfl

/-- ENC and a read of RESULT return the encoded byte and advance the position (R90, R163). -/
theorem runSteps_enc_read {s : State} {x : Byte} {rest : List HostEvent} (hr : s.resetLine = false)
    (hp : s.pending = cmdStatement (.enc x) :: rdStatement .result :: rest) :
    runSteps 2 s = .next ((((s.setPending rest).setResult (encodeByte (s.bankFor s.encPos) x)).setEncPos
      (nextPosition s.encPos)).pushReturned (encodeByte (s.bankFor s.encPos) x)) := by
  have henc : step s = .next (((s.setPending (rdStatement .result :: rest)).setResult
      (encodeByte (s.bankFor s.encPos) x)).setEncPos (nextPosition s.encPos)) := step_cmdStatement rfl hr hp
  exact runSteps_two henc (step_read (r := .result) hr rfl)

/-- The part of ENCODE behind its ENCRST: an ENC and a read of RESULT for each byte (R90). -/
def encodeBytesProgram (p : List Byte) : List HostEvent :=
  p.flatMap fun x => [cmdStatement (.enc x), rdStatement .result]

theorem encodeProgram_eq_cons (p : List Byte) : encodeProgram p = cmdStatement .encrst :: encodeBytesProgram p := rfl

theorem encodeBytesProgram_cons (x : Byte) (p : List Byte) :
    encodeBytesProgram (x :: p) = cmdStatement (.enc x) :: rdStatement .result :: encodeBytesProgram p := rfl

/-- The ENC and read pairs of ENCODE, from any position of the stream on (R165). -/
theorem runSteps_encodeBytes (p : List Byte) {i : Nat} {s : State} {rest : List HostEvent} (htab : s.TablesIntact)
    (hr : s.resetLine = false) (hpos : s.encPos.val = i % 24)
    (hp : s.pending = encodeBytesProgram p ++ rest) :
    ∃ t : State, runSteps (2 * p.length) s = .next t ∧ t.pending = rest ∧
      t.returned = s.returned ++ encodeReadsFrom i p ∧ t.encPos.val = (i + p.length) % 24 := by
  induction p generalizing i s with
  | nil => exact ⟨s, rfl, hp, (List.append_nil _).symm, hpos⟩
  | cons x p ih =>
    rw [encodeBytesProgram_cons] at hp
    have hbyte := runSteps_enc_read (rest := encodeBytesProgram p ++ rest) hr hp
    rw [bankFor_eq_sourceAlphabet htab hpos] at hbyte
    have hnext : (nextPosition s.encPos).val = (i + 1) % 24 := by
      rw [nextPosition_val, hpos, Nat.mod_add_mod]
    obtain ⟨t, hrun, hpend, hret, hend⟩ := ih (s := (((s.setPending (encodeBytesProgram p ++ rest)).setResult
      (encodeByte (sourceAlphabet i) x)).setEncPos (nextPosition s.encPos)).pushReturned
      (encodeByte (sourceAlphabet i) x)) htab hr hnext rfl
    refine ⟨t, ?_, hpend, ?_, ?_⟩
    · rw [List.length_cons, Nat.mul_succ, Nat.add_comm, runSteps_add hbyte]
      exact hrun
    · rw [hret, pushReturned_returned, List.append_assoc]
      rfl
    · rw [hend, List.length_cons, Nat.add_right_comm, Nat.add_assoc]

end Sys2Proof.Machine

/-! ## An encoder command and another one in either order (R166) -/

namespace Sys2Proof.Machine

/-- DECC of noise (R184). -/
theorem exec_decc_noise {s : State} {c : Byte} (hc : inBase c ≠ true) : exec (.decc c) s = .next (deccNoise s) := by
  rw [exec, execDecc, if_neg hc]

/-- DECC of the first character of a pair (R184). -/
theorem exec_decc_first {s : State} {c : Byte} (hc : inBase c = true) (hp : s.decPend ≠ true) :
    exec (.decc c) s = .next (deccFirst c s) := by
  rw [exec, execDecc, if_pos hc, if_neg hp]

/-- DECC of the second character of a pair (R184). -/
theorem exec_decc_second {s : State} {c : Byte} (hc : inBase c = true) (hp : s.decPend = true) :
    exec (.decc c) s = .next (deccSecond c s) := by
  rw [exec, execDecc, if_pos hc, if_pos hp]

/-- A term that is no command enters the error of check 3 (log entry 17). -/
theorem exec_of_not_wellFormed {i : Instr} (hi : i.wellFormed ≠ true) (s : State) :
    exec i s = .next (raiseCmdError .operandRange s) := by
  cases i with
  | lutrd k j =>
    have hj : 16 ≤ j.toNat := by simpa [Instr.wellFormed, lutrdInRange] using hi
    rw [exec, execLutrd, lutrdIndex_eq_none hj]
  | schrd j =>
    have hj : 24 ≤ j.toNat := by simpa [Instr.wellFormed, schrdInRange] using hi
    rw [exec, execSchrd, schrdIndex_eq_none hj]
  | _ => exact absurd rfl hi

/-- What the encoder reads, ENC_POS and the tables, no other command writes (R35, R166). -/
theorem exec_keeps_encoder_inputs {o : Instr} {s t : State} (ho : encoderCommand o = false)
    (hx : exec o s = .next t) : t.encPos = s.encPos ∧ t.banks = s.banks ∧ t.sched = s.sched := by
  by_cases hi : o.wellFormed = true
  · obtain ⟨-, henc, -, -, -, ⟨hbanks, hsched, -⟩, -⟩ := (exec_effect hi hx).frame
    exact ⟨henc ho, hbanks, hsched⟩
  · rw [exec_of_not_wellFormed hi] at hx
    cases hx
    simp [raiseCmdError_eq]

/-- An encoder command writes RESULT and ENC_POS alone, and does the same on every state with the same ENC_POS and
tables (R163, R164; ENCRST writes back the RESULT it finds). -/
theorem exec_encoder {e : Instr} (he : encoderCommand e = true) (s : State) :
    ∃ (v : Word) (p : Position), exec e s = .next ((s.setResult v).setEncPos p) ∧
      ∀ t : State, t.encPos = s.encPos ∧ t.banks = s.banks ∧ t.sched = s.sched →
        ∃ v' : Word, exec e t = .next ((t.setResult v').setEncPos p) ∧ (writesResult e = true → v' = v) := by
  cases e with
  | enc x =>
    refine ⟨_, _, rfl, ?_⟩
    rintro t ⟨hpos, hbanks, hsched⟩
    refine ⟨encodeByte (t.bankFor t.encPos) x, by rw [← hpos]; rfl, fun _ => ?_⟩
    simp only [State.bankFor, State.bank, hpos, hbanks, hsched]
  | encrst => exact ⟨s.result, 0, rfl, fun t _ => ⟨t.result, rfl, nofun⟩⟩
  | _ => cases he

/-- Error entry does not see RESULT and ENC_POS (R231). -/
theorem raiseCmdError_setResult_setEncPos (x : CmdError) (s : State) (v : Word) (p : Position) :
    raiseCmdError x ((s.setResult v).setEncPos p) = ((raiseCmdError x s).setResult v).setEncPos p := by
  simp only [raiseCmdError_eq]
  rfl

/-- No other command sees what the encoder writes, RESULT and ENC_POS: from a state that differs in them it does the
same, ENC_POS stays, and so does RESULT unless the command writes it (R35, R166). -/
theorem exec_setResult_setEncPos {o : Instr} {s t : State} (ho : encoderCommand o = false) (hx : exec o s = .next t)
    (v : Word) (p : Position) :
    ∃ r : Word, exec o ((s.setResult v).setEncPos p) = .next ((t.setResult r).setEncPos p) ∧
      (writesResult o = true → o.wellFormed = true → r = t.result) := by
  by_cases hi : o.wellFormed = true
  case neg =>
    rw [exec_of_not_wellFormed hi] at hx
    cases hx
    refine ⟨v, ?_, fun _ h => absurd h hi⟩
    rw [exec_of_not_wellFormed hi, raiseCmdError_setResult_setEncPos]
  case pos =>
    cases o with
    | enc x => cases ho
    | encrst => cases ho
    | nop => cases hx; exact ⟨v, rfl, nofun⟩
    | errclr => cases hx; exact ⟨v, rfl, nofun⟩
    | xform n => cases hx; exact ⟨v, rfl, nofun⟩
    | ldbase => cases hx; exact ⟨v, rfl, nofun⟩
    | ldbank k => cases hx; exact ⟨v, rfl, nofun⟩
    | decrst => cases hx; exact ⟨_, rfl, fun _ _ => rfl⟩
    | decc c =>
      refine ⟨t.result, ?_, fun _ _ => rfl⟩
      by_cases hc : inBase c = true
      · by_cases hp : s.decPend = true
        · rw [exec_decc_second hc hp] at hx
          cases hx
          exact exec_decc_second hc hp
        · rw [exec_decc_first hc hp] at hx
          cases hx
          exact exec_decc_first hc hp
      · rw [exec_decc_noise hc] at hx
        cases hx
        exact exec_decc_noise hc
    | lutrd k j =>
      have hj : j.toNat < 16 := of_decide_eq_true hi
      rw [exec_lutrd s k hj] at hx
      cases hx
      exact ⟨_, exec_lutrd _ k hj, fun _ _ => rfl⟩
    | lutidx k c =>
      refine ⟨t.result, ?_, fun _ _ => rfl⟩
      by_cases hc : inBase c = true
      · rw [exec_lutidx_of_inBase s k hc] at hx
        cases hx
        exact exec_lutidx_of_inBase _ k hc
      · rw [exec_lutidx_of_not_inBase s k hc] at hx
        cases hx
        exact exec_lutidx_of_not_inBase _ k hc
    | schrd j =>
      have hj : j.toNat < 24 := of_decide_eq_true hi
      rw [exec_schrd s hj] at hx
      cases hx
      exact ⟨_, exec_schrd _ hj, fun _ _ => rfl⟩

end Sys2Proof.Machine

/-! ## The statements about the encoder -/

namespace Sys2Proof.Machine

/-- Settles O30: the characters are entries of the bank that the schedule picks, and ENC has one operand. -/
theorem encWritesTwoCharacters : Obligations.EncWritesTwoCharacters := by
  refine ⟨?exec, ?baseSet, ?word, mustBeZero_reservedMask (o := 0x01) (by decide)⟩
  case exec =>
    intro s x k first second
    have hresult : encodeByte (s.bankFor s.encPos) x = BitVec.ofNat 32 (first.toNat + 2 ^ 8 * second.toNat) := by
      rw [encodeByte_eq_ofNat, entryAt_lowNibble, entryAt_highNibble]
      rfl
    rw [← hresult]
    rfl
  case baseSet =>
    intro s x htab
    refine ⟨_, rfl, ?_⟩
    rw [setEncPos_result, setResult_result, busByte_zero_encodeByte, busByte_one_encodeByte]
    exact ⟨inBase_entryAt_bank htab _ _, inBase_entryAt_bank htab _ _⟩
  case word =>
    intro x
    refine decode_ofNat rfl ?_
    simp [Instr.opc, Instr.kField, Instr.aField]

/-- Settles O31: each bank is an index-XOR by its mask, and the mask sequence follows the schedule. -/
theorem encClosedForm : Obligations.EncClosedForm := by
  intro s x htab
  refine ⟨_, rfl, ?_⟩
  have hhigh : x.toNat / 16 % 16 = x.toNat / 16 := Nat.mod_eq_of_lt (Nat.div_lt_of_lt_mul x.isLt)
  rw [setEncPos_result, setResult_result, busByte_zero_encodeByte, busByte_one_encodeByte,
    entryAt_bankFor_toNat htab, entryAt_bankFor_toNat htab, lowNibble_toNat, highNibble_toNat, hhigh]
  exact ⟨rfl, rfl⟩

/-- Settles O51: ENCRST starts at position 0, and each ENC and read pair returns the characters of its byte. -/
theorem encodeStreamIsSourceEncode : Obligations.EncodeStreamIsSourceEncode := by
  intro s p rest htab hr hp
  rw [encodeProgram_eq_cons] at hp
  have hrestart : step s = .next ((s.setPending (encodeBytesProgram p ++ rest)).setEncPos 0) :=
    step_cmdStatement rfl hr hp
  obtain ⟨t, hrun, hpend, hret, hpos⟩ := runSteps_encodeBytes p (i := 0)
    (s := (s.setPending (encodeBytesProgram p ++ rest)).setEncPos 0) htab hr rfl rfl
  refine ⟨t, encodeReadsFrom 0 p, ?_, hpend, hret, length_encodeReadsFrom 0 p,
    fun v => lt_of_mem_encodeReadsFrom, encodeOutput_encodeReadsFrom 0 p, ?_⟩
  · rw [Nat.add_comm, runSteps_succ hrestart]
    exact hrun
  · rw [hpos, Nat.zero_add]

/-- Settles O57: two characters a byte, all of intact banks, and a byte for each two filtered characters. -/
theorem encodeAndDecodeLengths : Obligations.EncodeAndDecodeLengths := by
  refine ⟨fun p => ⟨length_sourceEncodeFrom 0 p, fun c hc => ?_⟩, fun text => ?_⟩
  · exact (inBase_iff c).1 (inBase_of_mem_sourceEncodeFrom hc)
  · rw [sourceDecode, length_sourcePairsFrom, sourceFilter_eq]

/-- Settles O58: neither command writes what the other one reads. -/
theorem encoderInterleavesWithOthers : Obligations.EncoderInterleavesWithOthers := by
  intro e o s he ho
  obtain ⟨so, hso⟩ := exec_answers o s
  obtain ⟨v, p, hse, hsame⟩ := exec_encoder he s
  obtain ⟨v', hsoe, hv'⟩ := hsame so (exec_keeps_encoder_inputs ho hso)
  obtain ⟨r, hseo, hr⟩ := exec_setResult_setEncPos ho hso v p
  exact ⟨so, _, _, _, hso, hse, hsoe, hseo, rfl, hv', hr⟩

/-- Settles O32: ENCRST writes ENC_POS alone, and its word has no operand. -/
theorem encrstRestartsEncoder : Obligations.EncrstRestartsEncoder :=
  ⟨fun _ => rfl, decode_ofNat rfl rfl, mustBeZero_reservedMask (o := 0x02) (by decide)⟩

end Sys2Proof.Machine

/-! ## The byte of a pair (R180, R182, R184) -/

namespace Sys2Proof.Machine

/-- Where one place holds the character and no other does, the source's index is that place (R136, R180). -/
theorem idxOf_eq_of_get_eq_iff {a : Lanes} {c : Byte} {j : Fin 16} (h : ∀ i, a.get i = c ↔ i = j) :
    a.toList.idxOf c = j.val := by
  have hmem : c ∈ a.toList := by
    rw [← (h j).2 rfl]
    exact Vector.mem_toList_iff.2 (Vector.getElem_mem j.isLt)
  have hlt : a.toList.idxOf c < a.toList.length := List.idxOf_lt_length_iff.2 hmem
  have hfound : a.get ⟨a.toList.idxOf c, by simpa using hlt⟩ = c := List.getElem_idxOf hlt
  exact congrArg Fin.val ((h _).1 hfound)

/-- A pair is the number that the places of its characters make, the first one the low nibble (R184). -/
theorem decodePair_toNat {a : Lanes} {c1 c2 : Byte} {j1 j2 : Fin 16} (h1 : ∀ i, a.get i = c1 ↔ i = j1)
    (h2 : ∀ i, a.get i = c2 ↔ i = j2) : (decodePair a c1 c2).toNat = 16 * j2.val + j1.val := by
  rw [decodePair, joinNibbles_toNat, idx_eq_of_get_eq_iff h1, idx_eq_of_get_eq_iff h2]
  rfl

/-- With the tables intact a base-set code stands at one place of the bank of a position, that of R182. -/
theorem exists_place_bankFor {s : State} (htab : s.TablesIntact) (p : Position) {c : Byte} (hc : inBase c = true) :
    ∃ j : Fin 16, j.val = (c.toNat - 0x6C) ^^^ maskAt p ∧ ∀ i, (s.bankFor p).get i = c ↔ i = j := by
  obtain ⟨-, hbanks, hsched⟩ := htab
  obtain ⟨hlo, hhi⟩ := (inBase_iff c).1 hc
  rw [State.bankFor, State.bank, hbanks, hsched, maskAt_eq_bankMask]
  exact exists_place_bankTable _ hlo hhi

/-- A base-set code stands at one place of each of the source's alphabets (R136, R180). -/
theorem exists_place_sourceAlphabet (i : Nat) {c : Byte} (hc : inBase c = true) :
    ∃ j : Fin 16, ∀ k, (sourceAlphabet i).get k = c ↔ k = j := by
  obtain ⟨hlo, hhi⟩ := (inBase_iff c).1 hc
  obtain ⟨j, -, hplace⟩ := exists_place_bankTable _ hlo hhi
  exact ⟨j, hplace⟩

/-- No two places of an alphabet of the source hold the same character (R135). -/
theorem sourceAlphabet_get_inj (i : Nat) (j k : Fin 16) :
    (sourceAlphabet i).get k = (sourceAlphabet i).get j ↔ k = j := by
  obtain ⟨l, hplace⟩ := exists_place_sourceAlphabet i (inBase_sourceAlphabet i j)
  obtain rfl : j = l := (hplace j).1 rfl
  exact hplace k

/-- The source's byte of a pair is the number that the places of its characters make (R180). -/
theorem sourcePair_toNat {i : Nat} {c1 c2 : Byte} {j1 j2 : Fin 16}
    (h1 : ∀ k, (sourceAlphabet i).get k = c1 ↔ k = j1) (h2 : ∀ k, (sourceAlphabet i).get k = c2 ↔ k = j2) :
    (sourcePair i c1 c2).toNat = 16 * j2.val + j1.val := by
  rw [sourcePair, idxOf_eq_of_get_eq_iff h1, idxOf_eq_of_get_eq_iff h2, BitVec.toNat_ofNat]
  omega

/-- The machine's byte of a pair is the source's (R180, R184). -/
theorem decodePair_sourceAlphabet (i : Nat) {c1 c2 : Byte} (h1 : inBase c1 = true) (h2 : inBase c2 = true) :
    decodePair (sourceAlphabet i) c1 c2 = sourcePair i c1 c2 := by
  obtain ⟨j1, hj1⟩ := exists_place_sourceAlphabet i h1
  obtain ⟨j2, hj2⟩ := exists_place_sourceAlphabet i h2
  exact BitVec.eq_of_toNat_eq ((decodePair_toNat hj1 hj2).trans (sourcePair_toNat hj1 hj2).symm)

end Sys2Proof.Machine

/-! ## The source's decode as the inverse of its encode (R187 to R190) -/

namespace Sys2Proof.Machine

/-- The two characters of a byte decode to it (R187). -/
theorem sourcePairsFrom_sourceUnit_append (i : Nat) (x : Byte) (f : List Byte) :
    sourcePairsFrom i (sourceUnit i x ++ f) = x :: sourcePairsFrom (i + 1) f := by
  refine congrArg (· :: _) (BitVec.eq_of_toNat_eq ?_)
  rw [sourcePair_toNat (fun k => sourceAlphabet_get_inj i _ k) (fun k => sourceAlphabet_get_inj i _ k)]
  have := x.isLt
  simp only
  omega

/-- The byte of a pair of base-set characters encodes to the pair (R190). -/
theorem sourceUnit_sourcePair (i : Nat) {c1 c2 : Byte} (h1 : inBase c1 = true) (h2 : inBase c2 = true) :
    sourceUnit i (sourcePair i c1 c2) = [c1, c2] := by
  obtain ⟨j1, hj1⟩ := exists_place_sourceAlphabet i h1
  obtain ⟨j2, hj2⟩ := exists_place_sourceAlphabet i h2
  have hbyte := sourcePair_toNat hj1 hj2
  have hlow : (sourcePair i c1 c2).toNat % 16 = j1.val := by omega
  have hhigh : (sourcePair i c1 c2).toNat / 16 % 16 = j2.val := by omega
  rw [sourceUnit, (hj1 _).2 (Fin.ext hlow), (hj2 _).2 (Fin.ext hhigh)]

/-- Decoding an encoded text pair by pair gives the bytes back (R187). -/
theorem sourcePairsFrom_sourceEncodeFrom (i : Nat) (p : List Byte) :
    sourcePairsFrom i (sourceEncodeFrom i p) = p := by
  induction p generalizing i with
  | nil => rfl
  | cons x p ih => rw [sourceEncodeFrom, sourcePairsFrom_sourceUnit_append, ih]

/-- An encoded text passes the filter whole (R161, R180). -/
theorem sourceFilter_sourceEncode (p : List Byte) : sourceFilter (sourceEncode p) = sourceEncode p :=
  List.filter_eq_self.2 fun _ => inBase_of_mem_sourceEncodeFrom

/-- A part of a filtered text passes the filter whole (R180 step 1). -/
theorem sourceFilter_of_sublist {f text : List Byte} (h : f.Sublist (sourceFilter text)) : sourceFilter f = f :=
  List.filter_eq_self.2 fun _ hc => List.of_mem_filter (h.subset hc)

/-- Decode of encode is the identity (R187). -/
theorem sourceDecode_sourceEncode (p : List Byte) : sourceDecode (sourceEncode p) = p := by
  rw [sourceDecode, sourceFilter_sourceEncode]
  exact sourcePairsFrom_sourceEncodeFrom 0 p

theorem sourceFilter_cons_of_inBase {c : Byte} (hc : inBase c = true) (text : List Byte) :
    sourceFilter (c :: text) = c :: sourceFilter text := List.filter_cons_of_pos hc

theorem sourceFilter_cons_of_noise {c : Byte} (hc : inBase c ≠ true) (text : List Byte) :
    sourceFilter (c :: text) = sourceFilter text := List.filter_cons_of_neg hc

/-- The filter takes interleaved noise out (R188). -/
theorem sourceFilter_of_interleaving {a noise text : List Byte} (h : Interleaving a noise text)
    (hnoise : ∀ c ∈ noise, inBase c ≠ true) : sourceFilter text = sourceFilter a := by
  induction h with
  | nil => rfl
  | @left c a noise text _ ih =>
    by_cases hc : inBase c = true
    · rw [sourceFilter_cons_of_inBase hc, sourceFilter_cons_of_inBase hc, ih hnoise]
    · rw [sourceFilter_cons_of_noise hc, sourceFilter_cons_of_noise hc, ih hnoise]
  | right _ ih =>
    obtain ⟨hc, hrest⟩ := List.forall_mem_cons.1 hnoise
    rw [sourceFilter_cons_of_noise hc, ih hrest]

/-- A last unpaired character decodes to nothing (R180 step 2, R189). -/
theorem sourcePairsFrom_dropLast (i : Nat) (f : List Byte) (h : f.length % 2 = 1) :
    sourcePairsFrom i f.dropLast = sourcePairsFrom i f := by
  induction i, f using sourcePairsFrom.induct with
  | case1 i c1 c2 f ih =>
    have hodd : f.length % 2 = 1 := by simpa [Nat.add_assoc] using h
    have hne : f ≠ [] := by rintro rfl; cases hodd
    rw [List.dropLast_cons_of_ne_nil (List.cons_ne_nil c2 f), List.dropLast_cons_of_ne_nil hne, sourcePairsFrom,
      sourcePairsFrom, ih hodd]
  | case2 i c => rfl
  | case3 i => cases h

/-- Re-encoding what base-set text decodes to gives its pairs back (R190). -/
theorem sourceEncodeFrom_sourcePairsFrom (i : Nat) (f : List Byte) (hf : ∀ c ∈ f, inBase c = true) :
    sourceEncodeFrom i (sourcePairsFrom i f) = f.take (2 * (f.length / 2)) := by
  induction i, f using sourcePairsFrom.induct with
  | case1 i c1 c2 f ih =>
    obtain ⟨h1, h2, hrest⟩ : inBase c1 = true ∧ inBase c2 = true ∧ ∀ c ∈ f, inBase c = true := by
      simpa using hf
    have hlen : 2 * ((c1 :: c2 :: f).length / 2) = 2 * (f.length / 2) + 2 := by
      simp only [List.length_cons]; omega
    rw [sourcePairsFrom, sourceEncodeFrom, sourceUnit_sourcePair i h1 h2, ih hrest, hlen]
    rfl
  | case2 i c => simp [sourcePairsFrom, sourceEncodeFrom]
  | case3 i => rfl

end Sys2Proof.Machine

/-! ## The decoder's results and states (R184, R185) -/

namespace Sys2Proof.Machine

/-- DECC's result for noise (R184). -/
theorem deccResult_noise (pend : Bool) : deccResult pend false false 0 = if pend then 0x400 else 0 := by
  cases pend <;> rfl

/-- DECC's result for the second character of a pair, from its number (R184). -/
theorem deccResult_completed (x : Byte) : deccResult false true true x = BitVec.ofNat 32 (0x300 + x.toNat) := by
  have hnum : (deccResult false true true x).toNat = 0x300 + x.toNat := deccResult_toNat false true true x
  rw [← hnum, BitVec.ofNat_toNat, BitVec.setWidth_eq]

/-- DECC's byte is the low byte of its result (R184). -/
@[simp] theorem busByte_zero_deccResult (pend acc ov : Bool) (x : Byte) :
    busByte (deccResult pend acc ov x) 0 = x := by
  apply BitVec.eq_of_toNat_eq
  have := x.isLt
  rw [busByte_toNat, deccResult_toNat]
  omega

/-- `OV` is bit 8 of DECC's result (R184). -/
theorem getLsbD_eight_deccResult (pend acc ov : Bool) (x : Byte) :
    (deccResult pend acc ov x).getLsbD 8 = ov := by
  rw [deccResult, BitVec.getLsbD_append, if_neg (by decide), BitVec.getLsbD_append, if_pos (by decide)]
  cases ov <;> rfl

/-- DECRST's result (R185). -/
theorem decrstResult_eq_ite (dropped : Bool) : decrstResult dropped = if dropped then 1 else 0 := by
  cases dropped <;> rfl

/-- A second character with the tables and the held character as R34 has them: both stand at one place of the bank of
the position, and the byte is the number that the places make (R182, R184). -/
theorem exists_places_of_pair {s : State} {c : Byte} (hc : inBase c = true) (hp : s.decPend = true)
    (htab : s.TablesIntact) (hheld : s.HeldLegal) :
    ∃ posA posB : Fin 16, (s.bankFor s.decPos).get posA = s.pchar ∧ (s.bankFor s.decPos).get posB = c ∧
      posA.val = (s.pchar.toNat - 0x6C) ^^^ maskAt s.decPos ∧ posB.val = (c.toNat - 0x6C) ^^^ maskAt s.decPos ∧
      (decodePair (s.bankFor s.decPos) s.pchar c).toNat = 16 * posB.val + posA.val := by
  obtain ⟨-, hheldBase⟩ := hheld
  obtain ⟨posA, hxorA, hA⟩ := exists_place_bankFor htab s.decPos (hheldBase hp)
  obtain ⟨posB, hxorB, hB⟩ := exists_place_bankFor htab s.decPos hc
  exact ⟨posA, posB, (hA posA).2 rfl, (hB posB).2 rfl, hxorA, hxorB, decodePair_toNat hA hB⟩

end Sys2Proof.Machine

/-! ## The DECODE stream (R90, R186) -/

namespace Sys2Proof.Machine

/-- The output of a DECODE stream read by read (R90). -/
theorem decodeOutput_cons (v : Word) (reads : List Word) :
    decodeOutput (v :: reads) = decodeOutput [v] ++ decodeOutput reads := by
  simp only [decodeOutput, ← List.map_append, ← List.filter_append, List.singleton_append]

/-- A read of DECC's result gives its byte if `OV` is set, and nothing otherwise (R90, R184). -/
theorem decodeOutput_deccResult (pend acc ov : Bool) (x : Byte) :
    decodeOutput [deccResult pend acc ov x] = if ov then [x] else [] := by
  rw [decodeOutput, List.filter_singleton, getLsbD_eight_deccResult]
  cases ov
  · rfl
  · exact congrArg ([·]) (busByte_zero_deccResult pend acc true x)

/-- The characters that the decoder holds: the first one of the next pair, or none (R183). -/
def State.heldText (s : State) : List Byte := if s.decPend then [s.pchar] else []

theorem heldText_of_pend {s : State} (h : s.decPend = true) : s.heldText = [s.pchar] := if_pos h

theorem heldText_of_not_pend {s : State} (h : s.decPend ≠ true) : s.heldText = [] := if_neg h

/-- The block accepts accesses and its decoder is legal (R34) and at pair `i` of the stream (R183). -/
structure DecodesAt (i : Nat) (s : State) : Prop where
  tables : s.TablesIntact
  held : s.HeldLegal
  position : s.decPos.val = i % 24
  accepting : s.resetLine = false

/-- A DECC that takes `s` at pair `i` to `u` at pair `j` does the source's work on its character: what the source makes
of the held character and the text from here on is what `u` has in RESULT and what it makes from there on (R186). -/
structure DeccSimulates (c : Byte) (i : Nat) (s : State) (j : Nat) (u : State) : Prop where
  decodesAt : DecodesAt j u
  pending : u.pending = s.pending
  returned : u.returned = s.returned
  output : ∀ text, sourcePairsFrom i (s.heldText ++ sourceFilter (c :: text)) =
    decodeOutput [u.result] ++ sourcePairsFrom j (u.heldText ++ sourceFilter text)
  parity : ∀ text, (u.heldText ++ sourceFilter text).length % 2 =
    (s.heldText ++ sourceFilter (c :: text)).length % 2

section
variable {i : Nat} {s : State} (h : DecodesAt i s) {c : Byte}
include h

/-- Noise leaves no trace in the decoder (R183, R186). -/
theorem deccNoise_simulates (hc : inBase c ≠ true) : DeccSimulates c i s i (deccNoise s) where
  decodesAt := ⟨h.tables, h.held, h.position, h.accepting⟩
  pending := rfl
  returned := rfl
  output text := by
    rw [deccNoise, setResult_result, decodeOutput_deccResult, sourceFilter_cons_of_noise hc]
    rfl
  parity text := by
    rw [sourceFilter_cons_of_noise hc]
    rfl

/-- The first character of a pair is held for the second one (R186). -/
theorem deccFirst_simulates (hc : inBase c = true) (hp : s.decPend ≠ true) :
    DeccSimulates c i s i (deccFirst c s) where
  decodesAt := ⟨h.tables, ⟨nofun, fun _ => hc⟩, h.position, h.accepting⟩
  pending := rfl
  returned := rfl
  output text := by
    rw [deccFirst, setResult_result, decodeOutput_deccResult, sourceFilter_cons_of_inBase hc,
      heldText_of_not_pend hp]
    rfl
  parity text := by
    rw [sourceFilter_cons_of_inBase hc, heldText_of_not_pend hp]
    rfl

/-- The second character completes the source's byte and moves on to the next pair (R186). -/
theorem deccSecond_simulates (hc : inBase c = true) (hp : s.decPend = true) :
    DeccSimulates c i s (i + 1) (deccSecond c s) where
  decodesAt := by
    refine ⟨h.tables, ⟨fun _ => rfl, nofun⟩, ?_, h.accepting⟩
    rw [deccSecond, setResult_decPos, setDecPos_decPos, nextPosition_val, h.position, Nat.mod_add_mod]
  pending := rfl
  returned := rfl
  output text := by
    obtain ⟨-, hheldBase⟩ := h.held
    rw [deccSecond, setResult_result, decodeOutput_deccResult, bankFor_eq_sourceAlphabet h.tables h.position,
      decodePair_sourceAlphabet i (hheldBase hp) hc, sourceFilter_cons_of_inBase hc, heldText_of_pend hp]
    rfl
  parity text := by
    rw [sourceFilter_cons_of_inBase hc, heldText_of_pend hp]
    exact (Nat.add_mod_right _ 2).symm

/-- DECC of any character does the source's work on it (R184, R186). -/
theorem exec_decc_simulates (c : Byte) :
    ∃ (j : Nat) (u : State), exec (.decc c) s = .next u ∧ DeccSimulates c i s j u := by
  by_cases hc : inBase c = true
  · by_cases hp : s.decPend = true
    · exact ⟨_, _, exec_decc_second hc hp, deccSecond_simulates h hc hp⟩
    · exact ⟨_, _, exec_decc_first hc hp, deccFirst_simulates h hc hp⟩
  · exact ⟨_, _, exec_decc_noise hc, deccNoise_simulates h hc⟩

end

/-- The decoder emptied, and RESULT saying whether a character was held (R185). -/
def State.restartDecoder (s : State) : State := (s.dropChar.setDecPos 0).setResult (decrstResult s.decPend)

/-- DECRST (R185). -/
theorem exec_decrst (s : State) : exec .decrst s = .next s.restartDecoder := rfl

/-- After DECRST the decoder is at the stream's first pair (R185). -/
theorem decodesAt_restartDecoder {s : State} (htab : s.TablesIntact) (hr : s.resetLine = false) :
    DecodesAt 0 s.restartDecoder := ⟨htab, ⟨fun _ => rfl, nofun⟩, rfl, hr⟩

/-- After DECRST no character is held (R185). -/
theorem heldText_restartDecoder (s : State) : s.restartDecoder.heldText = [] := rfl

/-- A held character makes an odd number of them, which is what DECRST reports (R185, R186). -/
theorem restartDecoder_result (s : State) :
    s.restartDecoder.result = if s.heldText.length % 2 = 1 then 1 else 0 := by
  rw [State.restartDecoder, setResult_result]
  by_cases hp : s.decPend = true
  · rw [heldText_of_pend hp, hp]; rfl
  · rw [heldText_of_not_pend hp, Bool.eq_false_iff.2 hp]; rfl

/-- The part of DECODE between its two DECRST: a DECC and a read of RESULT for each character (R90). -/
def decodeCharsProgram (text : List Byte) : List HostEvent :=
  text.flatMap fun c => [cmdStatement (.decc c), rdStatement .result]

theorem decodeProgram_eq_cons (text : List Byte) :
    decodeProgram text = cmdStatement .decrst :: decodeCharsProgram text ++ [cmdStatement .decrst] := rfl

theorem decodeCharsProgram_cons (c : Byte) (text : List Byte) :
    decodeCharsProgram (c :: text) = cmdStatement (.decc c) :: rdStatement .result :: decodeCharsProgram text := rfl

/-- The DECC and read pairs of DECODE, from any pair of the stream on: they return the source's bytes, and a character
is held at the end exactly if the number of filtered ones is odd (R186). -/
theorem runSteps_decodeChars (text : List Byte) {i : Nat} {s : State} {rest : List HostEvent} (h : DecodesAt i s)
    (hp : s.pending = decodeCharsProgram text ++ rest) :
    ∃ (t : State) (reads : List Word), runSteps (2 * text.length) s = .next t ∧ t.pending = rest ∧
      t.resetLine = false ∧ t.returned = s.returned ++ reads ∧ reads.length = text.length ∧
      decodeOutput reads = sourcePairsFrom i (s.heldText ++ sourceFilter text) ∧
      t.heldText.length % 2 = (s.heldText ++ sourceFilter text).length % 2 := by
  induction text generalizing i s with
  | nil =>
    refine ⟨s, [], rfl, hp, h.accepting, (List.append_nil _).symm, rfl, ?_, ?_⟩
    · by_cases hpend : s.decPend = true
      · rw [heldText_of_pend hpend]; rfl
      · rw [heldText_of_not_pend hpend]; rfl
    · rw [sourceFilter, List.filter_nil, List.append_nil]
  | cons c text ih =>
    rw [decodeCharsProgram_cons] at hp
    have hs : DecodesAt i (s.setPending (rdStatement .result :: (decodeCharsProgram text ++ rest))) :=
      ⟨h.tables, h.held, h.position, h.accepting⟩
    obtain ⟨j, u, hexec, hu⟩ := exec_decc_simulates hs c
    have hdecc : step s = .next u := (step_cmdStatement rfl h.accepting hp).trans hexec
    have hread := step_read (r := .result) hu.decodesAt.accepting hu.pending
    obtain ⟨t, reads, hrun, hpend, haccept, hret, hlen, hout, hpar⟩ :=
      ih (i := j) (s := (u.setPending (decodeCharsProgram text ++ rest)).pushReturned u.result)
        ⟨hu.decodesAt.tables, hu.decodesAt.held, hu.decodesAt.position, hu.decodesAt.accepting⟩ rfl
    refine ⟨t, u.result :: reads, ?_, hpend, haccept, ?_, congrArg (· + 1) hlen, ?_, hpar.trans (hu.parity text)⟩
    · rw [List.length_cons, Nat.mul_succ, Nat.add_comm, runSteps_add (runSteps_two hdecc hread)]
      exact hrun
    · rw [hret, pushReturned_returned, setPending_returned, hu.returned, List.append_assoc]
      rfl
    · rw [decodeOutput_cons, hout]
      exact (hu.output text).symm

end Sys2Proof.Machine

/-! ## The statements about the decoder -/

namespace Sys2Proof.Machine

/-- Settles O33: noise, a first and a second character are the three cases of `exec_decc_noise`, `exec_decc_first` and
`exec_decc_second`. -/
theorem deccFiltersAndPairs : Obligations.DeccFiltersAndPairs := by
  refine ⟨?noise, ?first, ?second, ?word, mustBeZero_reservedMask (o := 0x03) (by decide)⟩
  case noise =>
    intro s c hc
    rw [exec_decc_noise (mt (inBase_iff c).1 hc), deccNoise, deccResult_noise]
    rfl
  case first =>
    intro s c hlo hhi hp
    exact exec_decc_first ((inBase_iff c).2 ⟨hlo, hhi⟩) (by rw [hp]; decide)
  case second =>
    intro s c hlo hhi hp htab hheld
    have hc : inBase c = true := (inBase_iff c).2 ⟨hlo, hhi⟩
    obtain ⟨posA, posB, hA, hB, -, -, hbyte⟩ := exists_places_of_pair hc hp htab hheld
    refine ⟨posA, posB, hA, hB, ?_⟩
    rw [exec_decc_second hc hp, deccSecond, deccResult_completed, hbyte, ← Nat.add_assoc]
    rfl
  case word =>
    intro c
    refine decode_ofNat rfl ?_
    simp [Instr.opc, Instr.kField, Instr.aField]

/-- Settles O34: the second character completes whatever the bank holds. -/
theorem deccSecondAlwaysCompletes : Obligations.DeccSecondAlwaysCompletes := by
  intro s c hlo hhi hp
  refine ⟨decodePair (s.bankFor s.decPos) s.pchar c, ?_⟩
  rw [exec_decc_second ((inBase_iff c).2 ⟨hlo, hhi⟩) hp, deccSecond, deccResult_completed]
  rfl

/-- Settles O35: the places of the two characters are index-XORs by the mask of the position. -/
theorem deccClosedForm : Obligations.DeccClosedForm := by
  intro s c hlo hhi hp htab hheld
  have hc : inBase c = true := (inBase_iff c).2 ⟨hlo, hhi⟩
  obtain ⟨posA, posB, -, -, hA, hB, hbyte⟩ := exists_places_of_pair hc hp htab hheld
  refine ⟨_, exec_decc_second hc hp, ?_⟩
  rw [deccSecond, setResult_result, busByte_zero_deccResult, hbyte, hA, hB]

/-- Settles O52: the first DECRST empties the decoder, each DECC does the source's work on its character, and the last
DECRST reports what is held. -/
theorem decodeStreamIsSourceDecode : Obligations.DecodeStreamIsSourceDecode := by
  intro s text rest htab hr hp
  rw [decodeProgram_eq_cons, List.append_assoc] at hp
  have hstart : step s =
      .next (s.setPending (decodeCharsProgram text ++ cmdStatement .decrst :: rest)).restartDecoder :=
    (step_cmdStatement rfl hr hp).trans (exec_decrst _)
  obtain ⟨t, reads, hrun, htpend, htr, htret, hlen, hout, hpar⟩ := runSteps_decodeChars text
    (s := (s.setPending (decodeCharsProgram text ++ cmdStatement .decrst :: rest)).restartDecoder)
    (decodesAt_restartDecoder htab hr) rfl
  rw [heldText_restartDecoder, List.nil_append] at hout hpar
  have hend : step t = .next (t.setPending rest).restartDecoder :=
    (step_cmdStatement rfl htr htpend).trans (exec_decrst _)
  refine ⟨(t.setPending rest).restartDecoder, reads, ?run, rfl, htret, hlen, hout, ?dropped, rfl, rfl⟩
  case run =>
    rw [Nat.add_comm, runSteps_succ hstart, runSteps_add hrun]
    exact runSteps_succ hend
  case dropped =>
    rw [restartDecoder_result, ← hpar]
    rfl

/-- Settles O53: both streams are the source's functions, and its decode is a left inverse of its encode. -/
theorem streamsRoundTrip : Obligations.StreamsRoundTrip := by
  refine ⟨sourceDecode_sourceEncode, ?streams⟩
  case streams =>
    intro s p rest htab hr hp
    obtain ⟨t, reads, hrun, -, hret, -, -, hout, -⟩ := encodeStreamIsSourceEncode s p rest htab hr hp
    refine ⟨t, reads, hrun, hret, ?_⟩
    intro u rest' hutab hur hup
    rw [hout] at hup
    obtain ⟨v, reads', hvrun, -, hvret, -, hvout, -⟩ :=
      decodeStreamIsSourceDecode u (sourceEncode p) rest' hutab hur hup
    have hsteps : 2 + 2 * (sourceEncode p).length = 2 + 4 * p.length := by
      rw [sourceEncode, length_sourceEncodeFrom]; omega
    exact ⟨v, reads', hsteps ▸ hvrun, hvret, hvout.trans (sourceDecode_sourceEncode p)⟩

/-- Settles O54: the filter takes the noise out and leaves the encoded text. -/
theorem decodeIgnoresInterleavedNoise : Obligations.DecodeIgnoresInterleavedNoise := by
  intro p noise text hnoise htext
  have hfilter : sourceFilter text = sourceFilter (sourceEncode p) :=
    sourceFilter_of_interleaving htext fun c hc => mt (inBase_iff c).1 (hnoise c hc)
  rw [sourceDecode, hfilter]
  exact sourceDecode_sourceEncode p

/-- Settles O55: a last unpaired character decodes to nothing. -/
theorem oddTextDropsLastCharacter : Obligations.OddTextDropsLastCharacter := by
  intro text hodd
  rw [sourceDecode, sourceDecode, sourceFilter_of_sublist (List.dropLast_sublist _)]
  exact (sourcePairsFrom_dropLast 0 _ hodd).symm

/-- Settles O56: each pair of base-set characters encodes back from its byte. -/
theorem reencodingGivesFilteredText : Obligations.ReencodingGivesFilteredText := fun text =>
  sourceEncodeFrom_sourcePairsFrom 0 (sourceFilter text) fun _ => List.of_mem_filter

/-- Settles O36: DECRST writes the decoder's fields and RESULT alone, and its word has no operand. -/
theorem decrstReportsAndDropsHeld : Obligations.DecrstReportsAndDropsHeld := by
  refine ⟨fun s => ?exec, decode_ofNat rfl rfl, mustBeZero_reservedMask (o := 0x04) (by decide)⟩
  case exec =>
    rw [exec_decrst, State.restartDecoder, decrstResult_eq_ite]
    rfl

end Sys2Proof.Machine

/-! ## The statements about the control commands -/

namespace Sys2Proof.Machine

/-- NOP's arm of the dispatch (R210). -/
theorem exec_nop (s : State) : exec .nop s = .next s := rfl

/-- ERRCLR is the return from error, a write of the error fields (R211, R237). -/
theorem exec_errclr (s : State) : exec .errclr s = .next (s.setError false 0) := rfl

/-- Settles O28: NOP answers its own state, and its word has no operand. -/
theorem nopChangesNothing : Obligations.NopChangesNothing :=
  ⟨exec_nop, decode_ofNat rfl rfl, mustBeZero_reservedMask (o := 0x00) (by decide)⟩

/-- Settles O29: ERRCLR writes the error fields alone, and its word has no operand. -/
theorem errclrClearsError : Obligations.ErrclrClearsError :=
  ⟨exec_errclr, decode_ofNat rfl rfl, mustBeZero_reservedMask (o := 0x05) (by decide)⟩

end Sys2Proof.Machine

/-! ## The statement about errors -/

namespace Sys2Proof.Machine

/-- A word that fails a check does error entry and nothing else, once the write is off the host's list (R231). -/
theorem step_eq_raiseCmdError {s : State} {w : Word} {e : CmdError} {rest : List HostEvent} (hr : s.resetLine = false)
    (hp : s.pending = .write 0 .word w :: rest) (hd : decode w = .error e) :
    step s = .next (raiseCmdError e (s.setPending rest)) := by
  rw [step_cmd hr hp, runCommand, hd]

/-- Settles O7: error entry writes the error fields where ERR is 0, and answers its own state where ERR is 1. -/
theorem commandErrorKeepsFirstCause : Obligations.CommandErrorKeepsFirstCause := by
  intro s w e rest hr hp hd
  constructor
  case left =>
    intro hclear
    rw [step_of_decode_error hr hp hd, hclear]
    rfl
  case right =>
    intro herr
    rw [step_eq_raiseCmdError hr hp hd, raiseCmdError_of_err (s := s.setPending rest) e herr]
    rfl

end Sys2Proof.Machine

/-! ## Steps at rest and at the reset input (R260, R262) -/

namespace Sys2Proof.Machine

/-- With nothing issued the step answers its own state (R262, log entry 2). -/
theorem step_of_pending_nil {s : State} (hp : s.pending = []) : step s = .next s := by
  rw [step, hp]

/-- In reset, an access to a register is refused, whichever of the two it is (R260, log entry 3). -/
theorem perform_register_in_reset {e : HostEvent} {off : Int} {size : AccessSize} (h : e.Access off size) {r : Reg}
    (ht : targetOf off size = .reg r) {s : State} (hr : s.resetLine = true) :
    perform e s = .refused .accessInReset := by
  cases h with
  | read => simp [perform, busRead, ht, hr]
  | write v => simp [perform, busWrite, ht, hr]

/-- Releasing a reset that is not asserted changes nothing (log entry 3). -/
theorem releaseReset_of_not_asserted {s : State} (hr : s.resetLine = false) : releaseReset s = s := by
  simp [releaseReset, hr]

end Sys2Proof.Machine

/-! ## The statements about the host at rest and the reset input -/

namespace Sys2Proof.Machine

/-- Settles O9: a step has only the oldest event to perform, and there is none. -/
theorem nothingIssuedChangesNothing : Obligations.NothingIssuedChangesNothing := fun _ hp => step_of_pending_nil hp

/-- Settles O18: a word access at a register's offset reaches that register, where reset refuses both kinds. -/
theorem noAccessAcceptedInReset : Obligations.NoAccessAcceptedInReset := by
  intro s r v rest hr hp
  have hrefused {e : HostEvent} (he : e.Access r.offset .word) :
      perform e (s.setPending rest) = .refused .accessInReset :=
    perform_register_in_reset he (targetOf_offset r) hr
  rcases hp with hread | hwrite
  · rw [step_event hread, hrefused .read]
  · rw [step_event hwrite, hrefused (.write v)]

/-- Settles O19: asserting writes the level alone, and `releaseReset` needs an asserted reset to do anything. -/
theorem resetLineFollowsHost : Obligations.ResetLineFollowsHost := by
  intro s rest
  constructor
  case left =>
    intro hp
    rw [step_event hp]
    rfl
  case right =>
    intro hr hp
    rw [step_event hp, perform, releaseReset_of_not_asserted (s := s.setPending rest) hr]
    rfl

end Sys2Proof.Machine
